-- ==== Sys2Proof/Word.lean ====
section
/-! DEFINITION. The word types of the STE block: all quantities are unsigned bit vectors (rule R92), bits numbered from 0. -/

namespace Sys2Proof

/-- A 32-bit value: a control word, a byte address, a bank register (rules R11, R31, R70). -/
abbrev Word := BitVec 32

/-- A 16-bit value: a payload or a count register (rules R11, R73). -/
abbrev Half := BitVec 16

/-- One byte of `MEM` (rule R37), also the width of the `ROUTE` field (rule R70). -/
abbrev Byte := BitVec 8

/-- One of the three GPIO banks (rule R2). -/
abbrev BankId := Fin 3

/-- One of the 32 pins of a bank (rule R30). -/
abbrev PinId := Fin 32

end Sys2Proof
end

