-- ==== Sys2Proof/Config.lean ====
section
/-! DEFINITION. The parameters of the block that `00_scope.md` section 4 leaves OPEN (`BUF_CAP`, `LOCK_ORDER`,
`IRQ_NEST`, `Mapped`, the type of handles), as plain data. A launch fixes them (rule R230) and no step changes them. -/

namespace Sys2Proof

/-- A callback or hook handle: the spec's opaque type with decidable equality (`92_eei_decisions.md` D2); log entry 1. -/
structure Handle where
  id : Nat
  deriving DecidableEq, Repr

/-- The four trigger conditions of a pin (rule R33). -/
inductive TrigMode where
  | rise | fall | high | low
  deriving DecidableEq, Repr

/-- `LOCK_ORDER`, the wake order of the lock (rule R103). -/
inductive LockOrder where
  | any | fifo
  deriving DecidableEq, Repr

/-- `IRQ_NEST`, whether handlers of different lines may interleave (rule R181). -/
inductive IrqNest where
  | any | none
  deriving DecidableEq, Repr

/-- A range of byte addresses `[base, base + size)` that the platform maps (rule R54). -/
structure Region where
  base : Nat
  size : Nat
  deriving DecidableEq, Repr

/-- The number of byte addresses of `MEM` (rule R37). -/
def Config.addressSpace : Nat := 0x100000000

/-- The least legal `BUF_CAP` (`92_eei_decisions.md` D6). -/
def Config.bufCapMin : Nat := 13

/-- The greatest legal `BUF_CAP`: an accepted length fits the 16-bit count registers (D6). -/
def Config.bufCapMax : Nat := 65535

/-- The model parameters of a run (rule R230): `BUF_CAP`, `LOCK_ORDER`, `IRQ_NEST` and the predicate `Mapped`. -/
structure Params where
  bufCap    : Nat
  lockOrder : LockOrder
  irqNest   : IrqNest
  mapped    : List Region
  deriving DecidableEq, Repr

/-- The parameter values of `State.reset`, those the spec's own vectors use (`95_test_vectors.md` section 2.4 and the
defaults of `00_scope.md` section 4).  DESIGN CHOICE, unsafe: log entry 2. -/
def Config.resetParams : Params where
  bufCap    := 64
  lockOrder := .any
  irqNest   := .any
  mapped    := [⟨0x20000000, 0x1000⟩, ⟨0xFFFFFF00, 0x100⟩]

end Sys2Proof
end

