-- ==== Sys2Proof/Syntax.lean ====
section
/-! DEFINITION. The syntax: the nine rows of the opcode table (`Instr`), their raw encoded forms (a 32-bit control word,
format CW, or a presentation on the command port, format CMD), the items of a requester's script, and the moves by
which the agents of rule R3 take their steps. -/

namespace Sys2Proof

/-- One constructor per row of the opcode table.  The four control words carry `L` and `TD` (rule R70); the five
commands carry the operands of rule R77. -/
inductive Instr where
  /-- `CW.S0`: a control word routed to chip select 0 (`ROUTE` = 0x00). -/
  | cwS0 (l : Bool) (td : Half)
  /-- `CW.S1`: a control word routed to chip select 1 (`ROUTE` = 0x01). -/
  | cwS1 (l : Bool) (td : Half)
  /-- `CW.S2`: a control word routed to chip select 2 (`ROUTE` = 0x03). -/
  | cwS2 (l : Bool) (td : Half)
  /-- `CW.S3`: a control word routed to chip select 3 (`ROUTE` = 0x07). -/
  | cwS3 (l : Bool) (td : Half)
  /-- `ENCODE`: pack a control word (rule R91). -/
  | encode (last : Bool) (cs : Byte) (payload : Half)
  /-- `TRANSCEIVE`: transfer `n` words (rule R101). -/
  | transceive (tx rx n : Word) (cb : Option Handle)
  /-- `GPIO_REGISTER`: install a hook (rule R140). -/
  | gpioRegister (bank : BitVec 2) (pin : BitVec 5) (mode : TrigMode) (hook : Handle)
  /-- `GPIO_UNREGISTER`: mask a pin (rule R146). -/
  | gpioUnregister (bank : BitVec 2) (pin : BitVec 5)
  /-- `INIT`: the clock-enable service (rule R100). -/
  | init
  deriving DecidableEq, Repr

/-- What a requester presents on the command port: `cmd_op` and every operand port (rules R76, R77).  A port the
command does not use is ignored. -/
structure Port where
  op      : BitVec 4
  last    : BitVec 1
  cs      : Byte
  payload : Half
  tx      : Word
  rx      : Word
  n       : Word
  cbValid : BitVec 1
  cb      : Handle
  bank    : BitVec 2
  pin     : BitVec 5
  mode    : BitVec 2
  hook    : Handle
  deriving DecidableEq, Repr

/-- The command port with operation code `op` and 0 on every operand port. -/
def Port.ofOp (op : BitVec 4) : Port :=
  ⟨op, 0, 0, 0, 0, 0, 0, 0, ⟨0⟩, 0, 0, 0, ⟨0⟩⟩

/-- The raw form of an instruction: a control word or a command-port presentation (`30_encoding.md`). -/
inductive Encoded where
  | controlWord (w : Word)
  | command (p : Port)
  deriving DecidableEq, Repr

/-- The width of a requester's own access to `MEM` (rules R50, R230). -/
inductive Width where
  | byte | half | word
  deriving DecidableEq, Repr

/-- The number of bytes of an access width. -/
def Width.bytes : Width → Nat
  | .byte => 1
  | .half => 2
  | .word => 4

/-- One item of a requester's script (rule R230): a command, or the requester's own read or write of `MEM`. -/
inductive Item where
  | command (p : Port)
  | load (width : Width) (addr : Word)
  | store (width : Width) (addr : Word) (value : Word)
  deriving DecidableEq, Repr

/-- Which agent of rule R3 takes the next step, with the values the environment chooses at that step. -/
inductive Move where
  /-- Agent (1): requester `r` takes its next micro-step, or issues the next item of its script. -/
  | task (r : Nat)
  /-- Agent (2): DMA_TX (rule R110). -/
  | dmaTx
  /-- Agent (2): DMA_RX, with the received word the environment draws (rules R56, R111). -/
  | dmaRx (draw : Word)
  /-- Agent (3): the SPI completion handler, its entry or its next micro-step (rules R130, R176). -/
  | spi
  /-- Agent (4): the dispatcher of a bank, its entry, read or next scan step (rules R150, R177). -/
  | gpio (b : BankId)
  /-- Agent (5): PIN_EVENT; `choice` is the environment's Boolean for an unconfigured pin (rule R148). -/
  | pin (b : BankId) (p : PinId) (level : Bool) (choice : Bool)
  deriving DecidableEq, Repr

end Sys2Proof
end

