-- ==== Sys2Proof/Decode.lean ====
section
/-! DEFINITION. The decoder and the encoder of both formats (`30_encoding.md`, rules R70 to R79; `40_encoder.md`, rule
R93).  Decoding is total: every control word and every command-port presentation is an instruction or is reserved, by
name. -/

namespace Sys2Proof

/-- Why a raw form is no instruction. -/
inductive Reserved where
  /-- A reserved control word (rule R74). -/
  | controlWord (w : Word)
  /-- A reserved operation code, 0x0 or 0x6 to 0xF (rule R79). -/
  | operation (op : BitVec 4)
  deriving DecidableEq, Repr

/-- The verdict of the decoder. -/
inductive Decoded where
  | instr (i : Instr)
  | reserved (why : Reserved)
  deriving DecidableEq, Repr

/-- The chip-select route table: 0, 1, 3, 7 for selects 0 to 3; no other select has a route (rule R72). -/
def route (cs : Byte) : Option Byte :=
  match cs.toNat with
  | 0 => some 0x00
  | 1 => some 0x01
  | 2 => some 0x03
  | 3 => some 0x07
  | _ => none

/-- The packing of a control word: `(L << 24) | (ROUTE << 16) | TD` (rules R70, R91). -/
def packWord (last : Bool) (routeBits : Byte) (payload : Half) : Word :=
  ((BitVec.ofBool last).setWidth 32 <<< 24) ||| (routeBits.setWidth 32 <<< 16) ||| payload.setWidth 32

/-- Field `RSV`, bits 31:25 (rule R70). -/
def rsvField (w : Word) : BitVec 7 := w.extractLsb' 25 7

/-- Field `L`, bit 24 (rule R70). -/
def lastField (w : Word) : Bool := w.getLsbD 24

/-- Field `ROUTE`, bits 23:16 (rule R70). -/
def routeField (w : Word) : Byte := w.extractLsb' 16 8

/-- Field `TD`, bits 15:0 (rule R70). -/
def payloadField (w : Word) : Half := w.extractLsb' 0 16

/-- DECODE_CW: `(L, cs, TD)` of a well-formed control word, `none` for a reserved one (rule R93). -/
def decodeControlWord (w : Word) : Option (Bool × Byte × Half) :=
  if rsvField w = 0 then
    match (routeField w).toNat with
    | 0x00 => some (lastField w, 0, payloadField w)
    | 0x01 => some (lastField w, 1, payloadField w)
    | 0x03 => some (lastField w, 2, payloadField w)
    | 0x07 => some (lastField w, 3, payloadField w)
    | _ => none
  else none

/-- A control word as the table's row: the row is named by the chip select of rule R93. -/
def decodeWord (w : Word) : Decoded :=
  match decodeControlWord w with
  | none => .reserved (.controlWord w)
  | some (l, cs, td) =>
    match cs.toNat with
    | 0 => .instr (.cwS0 l td)
    | 1 => .instr (.cwS1 l td)
    | 2 => .instr (.cwS2 l td)
    | _ => .instr (.cwS3 l td)

/-- `cmd_mode`: 0 RISE, 1 FALL, 2 HIGH, 3 LOW (rule R78). -/
def decodeMode (m : BitVec 2) : TrigMode :=
  match m.toNat with
  | 0 => .rise
  | 1 => .fall
  | 2 => .high
  | _ => .low

/-- The inverse of `decodeMode` (rule R78). -/
def encodeMode : TrigMode → BitVec 2
  | .rise => 0
  | .fall => 1
  | .high => 2
  | .low => 3

/-- A command-port presentation: the operation code names the command, and only its own operand ports are read (rules
R76, R77, R79). -/
def decodePort (p : Port) : Decoded :=
  match p.op.toNat with
  | 1 => .instr (.encode (p.last == 1) p.cs p.payload)
  | 2 => .instr (.transceive p.tx p.rx p.n (if p.cbValid = 1 then some p.cb else none))
  | 3 => .instr (.gpioRegister p.bank p.pin (decodeMode p.mode) p.hook)
  | 4 => .instr (.gpioUnregister p.bank p.pin)
  | 5 => .instr .init
  | _ => .reserved (.operation p.op)

/-- The decoder of both formats. -/
def decode : Encoded → Decoded
  | .controlWord w => decodeWord w
  | .command p => decodePort p

/-- The encoder of both formats: a control word by rule R70, a command by rules R76 to R78 with 0 on every port it does
not use. -/
def encode : Instr → Encoded
  | .cwS0 l td => .controlWord (packWord l 0x00 td)
  | .cwS1 l td => .controlWord (packWord l 0x01 td)
  | .cwS2 l td => .controlWord (packWord l 0x03 td)
  | .cwS3 l td => .controlWord (packWord l 0x07 td)
  | .encode last cs payload =>
    .command { Port.ofOp 1 with last := BitVec.ofBool last, cs := cs, payload := payload }
  | .transceive tx rx n none => .command { Port.ofOp 2 with tx := tx, rx := rx, n := n }
  | .transceive tx rx n (some h) =>
    .command { Port.ofOp 2 with tx := tx, rx := rx, n := n, cbValid := 1, cb := h }
  | .gpioRegister bank pin mode hook =>
    .command { Port.ofOp 3 with bank := bank, pin := pin, mode := encodeMode mode, hook := hook }
  | .gpioUnregister bank pin => .command { Port.ofOp 4 with bank := bank, pin := pin }
  | .init => .command (Port.ofOp 5)

/-- The raw form of a word of the opcode table.  A 32-bit row is a control word; a row of at most 8 bits is a 4-bit
`cmd_op` (its byte's upper half is no part of the port) with 0 on every operand port. -/
def tableForm (nbits w : Nat) : Option Encoded :=
  if nbits ≤ 8 then some (.command (Port.ofOp (BitVec.ofNat 4 w)))
  else if nbits = 32 then some (.controlWord (BitVec.ofNat 32 w))
  else none

/-- The instruction the decoder reads from a word of the opcode table. -/
def decodeTableWord (nbits w : Nat) : Option Instr :=
  match tableForm nbits w with
  | none => none
  | some e =>
    match decode e with
    | .instr i => some i
    | .reserved _ => none

end Sys2Proof
end

