-- ==== Sys2Proof/WellFormed.lean ====
section
/-! DEFINITION. Well-formedness: an instruction whose operands name existing units and a length some legal `BUF_CAP`
accepts (rules R77, R102, R170), and a legal choice of the parameters (`00_scope.md` section 4). An instruction that
is not well-formed can still be presented: it is decoded, and its meaning answers with the violation or the refusal. -/

namespace Sys2Proof

/-- No operand of the instruction lies outside the values some unit of the block has: the chip select is 0..3, the
bank 0..2, the length 1..65535 (rules R2, R77; `92_eei_decisions.md` D6, D25). -/
def Instr.wellFormed : Instr → Bool
  | .cwS0 _ _ | .cwS1 _ _ | .cwS2 _ _ | .cwS3 _ _ | .init => true
  | .encode _ cs _ => decide (cs.toNat ≤ 3)
  | .transceive _ _ n _ => decide (1 ≤ n.toNat) && decide (n.toNat ≤ Config.bufCapMax)
  | .gpioRegister bank _ _ _ => decide (bank.toNat ≤ 2)
  | .gpioUnregister bank _ => decide (bank.toNat ≤ 2)

/-- A mapped region lies inside the address space (rule R37). -/
def Region.wellFormed (g : Region) : Bool :=
  decide (g.base + g.size ≤ Config.addressSpace)

/-- The parameters are legal: `13 ≤ BUF_CAP ≤ 65535`, and `Mapped` holds only of existing addresses (D6, rule R54). -/
def Params.wellFormed (p : Params) : Bool :=
  decide (Config.bufCapMin ≤ p.bufCap) && decide (p.bufCap ≤ Config.bufCapMax) &&
    p.mapped.all Region.wellFormed

end Sys2Proof
end

