-- ==== Sys2Proof/Machine/State.lean ====
section
/-! DEFINITION. Every piece of state the spec gives the STE block (`10_state.md`, rules R11 to R38), the launch
parameters of rule R230 that a run carries with it, the reset state (rule R200), and the reasons a step can stop. -/

namespace Sys2Proof.Machine

/-- `PH[r]`: the phases of a requester's command (rule R12). -/
inductive Phase where
  | idle | t1 | t2 | t3a | t3b | t3c | t4 | t5 | g1 | g2 | g3 | g4
  deriving DecidableEq, Repr

/-- `SPI_H`: the phases of the SPI completion handler (rule R13). -/
inductive SpiPhase where
  | idle | a | b | c | d1 | d2
  deriving DecidableEq, Repr

/-- `GPIO_H[b]`: the phases of a bank's dispatcher; `scan S i` holds the snapshot and the next pin (rule R14). -/
inductive DispatchPhase where
  | idle
  | entered
  | scan (snapshot : Word) (next : PinId)
  deriving DecidableEq, Repr

/-- The code of a response (rule R170). -/
inductive RspCode where
  | ok | errCs | errLen | errBank
  deriving DecidableEq, Repr

/-- An event of the output trace (rule R38). -/
inductive Event where
  | spiTx (w : Word)
  | cbInvoke (h : Handle)
  | hookInvoke (b : BankId) (p : PinId) (h : Handle)
  | rsp (r : Nat) (code : RspCode) (info : Word) (word : Option Word)
  deriving DecidableEq, Repr

/-- `REQ[r]`, the request latch: the fields TRANSCEIVE latches and the fields GPIO_REGISTER latches (rule R12); log
entry 5. -/
structure Latch where
  tx   : Word
  rx   : Word
  n    : Half
  cb   : Option Handle
  bank : BankId
  pin  : PinId
  mode : TrigMode
  hook : Handle
  deriving DecidableEq, Repr

/-- A request latch at reset.  DESIGN CHOICE: the spec leaves it unspecified; log entry 3. -/
def Latch.zero : Latch := ⟨0, 0, 0, none, 0, 0, .rise, ⟨0⟩⟩

/-- A requester (rules R3, R12): `PH[r]`, `REQ[r]`, the rest of its script (rule R230), and the value its own last read
of `MEM` returned (the model's own field, log entry 6). -/
structure Requester where
  ph       : Phase
  req      : Latch
  script   : List Item
  lastRead : Word
  deriving DecidableEq, Repr

/-- A requester at launch, with its script. -/
def Requester.atReset (script : List Item) : Requester :=
  ⟨.idle, Latch.zero, script, 0⟩

/-- A GPIO bank: `NVIC_GPIO[b]`, `ISR[b]`, `IMR[b]`, `MODE[b]`, `HOOK[b]`, `PINLVL[b]`, `GPIO_H[b]` (rules R14, R24,
R30 to R34). -/
structure Bank where
  nvic  : Bool
  isr   : Word
  imr   : Word
  mode  : Vector (Option TrigMode) 32
  hook  : Vector (Option Handle) 32
  level : Word
  disp  : DispatchPhase
  deriving DecidableEq, Repr

/-- A bank at reset (rule R200) with its launch pin levels (rule R34). -/
def Bank.atReset (level : Word) : Bank :=
  ⟨false, 0, 0, Vector.replicate 32 none, Vector.replicate 32 none, level, .idle⟩

/-- `MEM` as its listed bytes, addresses strictly rising (rule R37). -/
abbrev Memory := List Host.Cell

/-- The state of the block.  The first group is the SPI engine, the second the GPIO banks, the third the requesters and
the lock, then memory and trace, then the model's inputs (rule R230, log entry 4). -/
structure State where
  /-- `READY` (rule R21). -/
  ready   : Bool
  /-- `IE_DONE`, the SPI interrupt-enable register (rule R20). -/
  ieDone  : Bool
  /-- `EN`, the SPI control register (rule R19). -/
  en      : Bool
  /-- `DONE`, the SPI status register (rules R15, R22). -/
  done    : Bool
  /-- `SIG`, the completion signal (rule R16). -/
  sig     : Bool
  /-- `NVIC_SPI` (rule R23). -/
  nvicSpi : Bool
  /-- `TPR` (rule R11). -/
  tpr     : Word
  /-- `TCR` (rule R11). -/
  tcr     : Half
  /-- `RPR` (rule R11). -/
  rpr     : Word
  /-- `RCR` (rule R11). -/
  rcr     : Half
  /-- `INFL` (rule R35). -/
  infl    : Nat
  /-- `CB` (rule R18). -/
  cb      : Option Handle
  /-- `SPI_H` (rule R13). -/
  spiH    : SpiPhase
  /-- The three GPIO banks (rule R2). -/
  banks   : Vector Bank 3
  /-- The `NREQ` requesters, by index (rule R3). -/
  reqs    : List Requester
  /-- `LOCK` (rule R17). -/
  lock    : Option Nat
  /-- `WAITQ` (rule R17). -/
  waitq   : List Nat
  /-- `MEM` (rule R37). -/
  mem     : Memory
  /-- `TRACE` (rule R38). -/
  trace   : List Event
  /-- `cmd_req`, the requester presenting a command (`00_scope.md` section 6).  The spec gives this input port no value
  at reset or between presentations.  DESIGN CHOICE, unsafe: held as data, 0 at reset and after `rst`, between
  presentations the last presenter; log entry 21. -/
  cmdReq  : Nat
  /-- The moves the agents and the environment take next, the next one first (rule R3). -/
  moves   : List Move
  /-- The parameters of the run (rule R230). -/
  cfg     : Params
  deriving DecidableEq, Repr

/-- Why the machine stops with a fault. -/
inductive Fault where
  /-- Raised by a requester's own read or write of `MEM` (a script item) when a byte of it is not `Mapped`: such an
  address does not exist (rule R54).  Safe: the model stops where the platform may do anything.  Log entry 7. -/
  | unmappedAccess (r : Nat) (addr : Word)
  deriving DecidableEq, Repr

/-- Why the block gives a situation no meaning: the `refuse` treatments of `93_implementation_defined.md`.  All are safe:
nothing can be proved of what follows. -/
inductive Refusal where
  /-- Raised by `exec` for an instruction that has no meaning yet.  Safe. -/
  | notModelled (mnemonic : String)
  /-- Raised when a script presents a reserved `cmd_op` (rule R79, U7).  Safe. -/
  | reservedCommand (op : BitVec 4)
  /-- Raised by a command whose requester is not IDLE (rule R79, U7).  Safe. -/
  | requesterBusy (r : Nat)
  /-- Raised by a command on whose port `cmd_req` names no requester (`00_scope.md` section 6).  Safe. -/
  | noSuchRequester (r : Nat)
  /-- Raised by TRANSCEIVE before INIT (rule R102, U2).  Safe. -/
  | notReady
  /-- Raised by TRANSCEIVE with `n = 0` (rule R102, U3).  Safe. -/
  | zeroLength
  /-- Raised by TRANSCEIVE with a buffer address that is not a multiple of 4 (rules R53, R102, U4).  Safe. -/
  | misalignedBuffer
  /-- Raised by TRANSCEIVE with a region that passes the top of the address space (rules R53, R102, U5).  Safe. -/
  | regionPastTop
  /-- Raised by TRANSCEIVE with overlapping regions (rules R53, R102, U6).  Safe. -/
  | regionsOverlap
  /-- Raised by TRANSCEIVE with a region that is not wholly mapped (rules R54, R102, U6).  Safe. -/
  | regionNotMapped
  deriving DecidableEq, Repr

/-- The reset state completed by the launch parameters (rules R200, R230): the parameters of the run, the content of
`MEM`, the pin levels, and one script per requester (`NREQ` is the number of scripts).  `TPR`, `TCR`, `RPR`, `RCR` and
`REQ[r]` are unspecified there; 0 is a DESIGN CHOICE, unsafe, log entry 3.  The input port `cmd_req` has no reset value;
`cmdReq := 0` is a DESIGN CHOICE, unsafe, log entry 21.  No move is placed; log entry 4. -/
def State.launch (cfg : Params) (mem : Memory) (levels : Vector Word 3) (scripts : List (List Item)) : State where
  ready   := false
  ieDone  := false
  en      := false
  done    := false
  sig     := false
  nvicSpi := false
  tpr     := 0
  tcr     := 0
  rpr     := 0
  rcr     := 0
  infl    := 0
  cb      := none
  spiH    := .idle
  banks   := levels.map Bank.atReset
  reqs    := scripts.map Requester.atReset
  lock    := none
  waitq   := []
  mem     := mem
  trace   := []
  cmdReq  := 0
  moves   := []
  cfg     := cfg

/-- The machine right after reset with the launch parameters of log entry 2: three requesters with empty scripts,
memory with nothing listed, all pin levels 0, no move placed. -/
def State.reset : State :=
  State.launch Config.resetParams [] (Vector.replicate 3 0) [[], [], []]

end Sys2Proof.Machine
end

