-- ==== Sys2Proof/Machine/Ops.lean ====
section
/-! DEFINITION. The named operations over memory, requesters, banks and the trace: every read and write of state that a
rule makes goes through one of them.  Raising a contract violation (rule R170), entering a handler (rules R176, R177)
and returning from one (rule R180) stand here once. -/

namespace Sys2Proof.Machine

/-! ### Memory (rules R37, R50 to R52) -/

/-- What a byte of `MEM` that is not listed reads as.  DESIGN CHOICE, unsafe: log entry 8. -/
def unlistedByte : Byte := 0

/-- The byte at an address. -/
def Memory.readByte : Memory → Nat → Byte
  | [], _ => unlistedByte
  | (k, u) :: rest, a => if k = a then u else Memory.readByte rest a

/-- Store one byte, keeping the canonical form: addresses strictly rising, no entry equal to `unlistedByte`. -/
def Memory.writeByte : Memory → Nat → Byte → Memory
  | [], a, v => if v = unlistedByte then [] else [(a, v)]
  | (k, u) :: rest, a, v =>
    if a < k then
      if v = unlistedByte then (k, u) :: rest else (a, v) :: (k, u) :: rest
    else if a = k then
      if v = unlistedByte then rest else (a, v) :: rest
    else (k, u) :: Memory.writeByte rest a v

/-- The canonical form of a memory: equal memories are equal lists. -/
abbrev Memory.wf (m : Memory) : Prop :=
  m.Pairwise (fun c d => c.1 < d.1) ∧ ∀ c ∈ m, c.2 ≠ unlistedByte ∧ c.1 < Config.addressSpace

/-- The key of byte `k` of an access at byte address `a`, modulo 2^32. -/
def byteAddr (a : Word) (k : Nat) : Nat := (a + BitVec.ofNat 32 k).toNat

/-- `MemRead(a, 4)`: little-endian (rule R50). -/
def Memory.readWord (m : Memory) (a : Word) : Word :=
  m.readByte (byteAddr a 3) ++ m.readByte (byteAddr a 2) ++ m.readByte (byteAddr a 1) ++ m.readByte (byteAddr a 0)

/-- `MemWrite(a, 4, v)`: little-endian (rule R50). -/
def Memory.writeWord (m : Memory) (a : Word) (v : Word) : Memory :=
  (((m.writeByte (byteAddr a 0) (v.extractLsb' 0 8)).writeByte (byteAddr a 1) (v.extractLsb' 8 8)).writeByte
    (byteAddr a 2) (v.extractLsb' 16 8)).writeByte (byteAddr a 3) (v.extractLsb' 24 8)

/-- A requester's own read of `width` bytes, little-endian and zero-extended (rule R50). -/
def Memory.load (m : Memory) (width : Width) (a : Word) : Word :=
  match width with
  | .byte => (m.readByte (byteAddr a 0)).setWidth 32
  | .half => (m.readByte (byteAddr a 1) ++ m.readByte (byteAddr a 0)).setWidth 32
  | .word => m.readWord a

/-- A requester's own write of the low `width` bytes of `v`, little-endian (rule R50). -/
def Memory.store (m : Memory) (width : Width) (a : Word) (v : Word) : Memory :=
  match width with
  | .byte => m.writeByte (byteAddr a 0) (v.extractLsb' 0 8)
  | .half => (m.writeByte (byteAddr a 0) (v.extractLsb' 0 8)).writeByte (byteAddr a 1) (v.extractLsb' 8 8)
  | .word => m.writeWord a v

/-- `Mapped(a)` (rule R54). -/
def isMapped (p : Params) (a : Nat) : Bool :=
  p.mapped.any fun g => decide (g.base ≤ a) && decide (a < g.base + g.size)

/-- Every byte of `[base, base + size)` is mapped (rule R102). -/
def allMapped (p : Params) (base : Nat) : Nat → Bool
  | 0 => true
  | size + 1 => isMapped p base && allMapped p (base + 1) size

/-! ### Requesters (rules R12, R17) -/

/-- `PH[r]`; an index that names no requester reads as IDLE. -/
def State.phase (s : State) (r : Nat) : Phase :=
  match s.reqs[r]? with
  | some q => q.ph
  | none => .idle

/-- `REQ[r]`. -/
def State.latch (s : State) (r : Nat) : Latch :=
  match s.reqs[r]? with
  | some q => q.req
  | none => Latch.zero

/-- Update requester `r`; an index that names no requester changes nothing. -/
def State.modReq (s : State) (r : Nat) (f : Requester → Requester) : State :=
  { s with reqs := s.reqs.modify r f }

/-- `PH[r] <- p`. -/
def State.setPhase (s : State) (r : Nat) (p : Phase) : State :=
  s.modReq r fun q => { q with ph := p }

/-! ### Banks (rule R2) -/

/-- Bank `b`. -/
def State.bank (s : State) (b : BankId) : Bank := s.banks[b]

/-- Replace bank `b`. -/
def State.setBank (s : State) (b : BankId) (k : Bank) : State :=
  { s with banks := s.banks.set b k }

/-! ### The trace (rule R38), responses and contract violations (rule R170) -/

/-- `emit ev`: append the event to the trace. -/
def State.emit (s : State) (e : Event) : State :=
  { s with trace := s.trace ++ [e] }

/-- `respond(r, OK)` or `respond(r, OK, w)`. -/
def State.respond (s : State) (r : Nat) (w : Option Word) : State :=
  s.emit (.rsp r .ok 0 w)

/-- `raise <Violation>(info)`: no state element changes; the response with the violation's code, the offending operand
and no result word is appended to the trace (rule R170). -/
def State.raise (s : State) (r : Nat) (code : RspCode) (info : Word) : State :=
  s.emit (.rsp r code info none)

/-- The 2-bit code on `rsp_err` (rule R170). -/
def RspCode.bits : RspCode → BitVec 2
  | .ok => 0
  | .errCs => 1
  | .errLen => 2
  | .errBank => 3

/-! ### Handlers: entry and return (rules R4, R176, R177, R180) -/

/-- The SPI completion handler is active. -/
def State.spiActive (s : State) : Bool := decide (s.spiH ≠ .idle)

/-- The dispatcher of bank `b` is active. -/
def State.dispatcherActive (s : State) (b : BankId) : Bool := decide ((s.bank b).disp ≠ .idle)

/-- Some bank's dispatcher is active. -/
def State.anyDispatcherActive (s : State) : Bool :=
  s.dispatcherActive 0 || s.dispatcherActive 1 || s.dispatcherActive 2

/-- Some handler is active: no task-context step is enabled (rule R4). -/
def State.handlerActive (s : State) : Bool := s.spiActive || s.anyDispatcherActive

/-- SPI_IRQ_ENTRY (rule R176): nothing but the phase changes. -/
def enterSpiHandler (s : State) : State := { s with spiH := .a }

/-- The return from the SPI completion handler (rule R180). -/
def leaveSpiHandler (s : State) : State := { s with spiH := .idle }

/-- GPIO_IRQ_ENTRY (rule R177): nothing but the phase changes. -/
def enterDispatcher (b : BankId) (s : State) : State :=
  s.setBank b { s.bank b with disp := .entered }

/-- The return from the dispatcher of bank `b` (rule R180). -/
def leaveDispatcher (b : BankId) (s : State) : State :=
  s.setBank b { s.bank b with disp := .idle }

/-! ### Presenting a command (rules R4, R76, R79) -/

/-- The frame of every command: the presenting requester exists and is IDLE (rule R79); while a handler is active its
step is not enabled and nothing happens (rule R4); else the command acts for that requester. -/
def State.issue (s : State) (act : Nat → Host.Outcome State Fault Refusal) : Host.Outcome State Fault Refusal :=
  match s.reqs[s.cmdReq]? with
  | none => .refused (.noSuchRequester s.cmdReq)
  | some q =>
    if q.ph ≠ .idle then .refused (.requesterBusy s.cmdReq)
    else if s.handlerActive then .next s
    else act s.cmdReq

/-! ### The reset port (rules R200, R202) -/

/-- The effect of `rst` on a running block: every element takes its reset value, a transfer in flight is abandoned with
no response, `MEM` and the pin levels stay.  No move asserts it (rule R232); log entry 9.  `cmdReq` becomes 0; log entry
21. -/
def State.rst (s : State) : State :=
  { State.launch s.cfg s.mem (s.banks.map (·.level)) (s.reqs.map (·.script)) with
    moves := s.moves }

end Sys2Proof.Machine
end

