-- ==== Sys2Proof/Machine/Operands.lean ====
section
/-! DEFINITION. The operands of the commands: the selectors that name a unit (rules R72, R77), the buffer regions of a
TRANSCEIVE and their checks (rules R53, R54, R102), and the latching of an accepted request (rule R12). -/

namespace Sys2Proof.Machine

/-- The bank a 2-bit operand names; 3 names none (rules R77, R178). -/
def bankOf (b : BitVec 2) : Option BankId :=
  if h : b.toNat < 3 then some ⟨b.toNat, h⟩ else none

/-- The pin a 5-bit operand names: every value is a pin (rule R77). -/
def pinOf (p : BitVec 5) : PinId := ⟨p.toNat, p.isLt⟩

/-- The mask of one pin, `1 << p` (rules R141, R144). -/
def pinMask (p : PinId) : Word := 1#32 <<< p.val

/-- A buffer address is a multiple of 4 (rule R53). -/
def isAligned (a : Word) : Bool := decide (a.toNat % 4 = 0)

/-- The region `[a, a + 4n)` does not pass the top of the address space (rule R53). -/
def regionFits (a : Word) (n : Nat) : Bool := decide (a.toNat + 4 * n ≤ Config.addressSpace)

/-- The regions `[tx, tx + 4n)` and `[rx, rx + 4n)` overlap (rule R53). -/
def regionsMeet (tx rx : Word) (n : Nat) : Bool :=
  decide (tx.toNat < rx.toNat + 4 * n) && decide (rx.toNat < tx.toNat + 4 * n)

/-- The tests of T0 after the length check, in the order of rule R102: why the request has no meaning, if it has none. -/
def transferRefusal (s : State) (tx rx n : Word) : Option Refusal :=
  if s.ready = false then some .notReady
  else if n = 0 then some .zeroLength
  else if !isAligned tx || !isAligned rx then some .misalignedBuffer
  else if !regionFits tx n.toNat || !regionFits rx n.toNat then some .regionPastTop
  else if regionsMeet tx rx n.toNat then some .regionsOverlap
  else if !allMapped s.cfg tx.toNat (4 * n.toNat) || !allMapped s.cfg rx.toNat (4 * n.toNat) then
    some .regionNotMapped
  else none

/-- `REQ[r] <- (tx, rx, n[15:0], cb)` (rule R102). -/
def latchTransfer (s : State) (r : Nat) (tx rx n : Word) (cb : Option Handle) : State :=
  s.modReq r fun q => { q with req := { q.req with tx := tx, rx := rx, n := n.setWidth 16, cb := cb } }

/-- `REQ[r] <- (bank, pin, mode, hook)` (rule R140). -/
def latchRegistration (s : State) (r : Nat) (b : BankId) (p : PinId) (m : TrigMode) (h : Handle) : State :=
  s.modReq r fun q => { q with req := { q.req with bank := b, pin := p, mode := m, hook := h } }

end Sys2Proof.Machine
end

