-- ==== Sys2Proof/Machine/Flags.lean ====
section
/-! DEFINITION. Every status bit, enable bit and request computation of the spec: `DONE`, the interrupt requests and the
delivery conditions (rules R174 to R177), the bank's mask ports (rule R32), its destructive status read (rule R31), the
trigger condition (rule R148) and the enabling conditions of the DMA steps (rules R110, R111). -/

namespace Sys2Proof.Machine

/-- `irq_spi` (rule R174). -/
def State.irqSpi (s : State) : Bool := s.done && s.ieDone

/-- `ISR[b] & IMR[b]`: `status & mask` (rules R151, R175). -/
def Bank.pending (k : Bank) : Word := k.isr &&& k.imr

/-- `irq_gpio[b]` (rule R175). -/
def State.irqGpio (s : State) (b : BankId) : Bool := decide ((s.bank b).pending ≠ 0)

/-- The entry of the SPI completion handler is enabled (rule R176). -/
def State.spiEntryEnabled (s : State) : Bool :=
  s.irqSpi && s.nvicSpi && !s.spiActive &&
    (decide (s.cfg.irqNest = .any) || !s.anyDispatcherActive)

/-- The entry of the dispatcher of bank `b` is enabled (rule R177).  Its own phase is idle there, so `another dispatcher
is active` is `some dispatcher is active`. -/
def State.dispatcherEntryEnabled (s : State) (b : BankId) : Bool :=
  s.irqGpio b && (s.bank b).nvic && !s.dispatcherActive b &&
    (decide (s.cfg.irqNest = .any) || (!s.spiActive && !s.anyDispatcherActive))

/-- DMA_TX is enabled (rule R110). -/
def State.dmaTxEnabled (s : State) : Bool := s.en && decide (s.tcr ≠ 0)

/-- DMA_RX is enabled (rule R111). -/
def State.dmaRxEnabled (s : State) : Bool := s.en && decide (s.rcr ≠ 0) && decide (0 < s.infl)

/-- The `transfer complete` test of DMA_RX, on the values before the step (rule R111). -/
def State.lastReceive (s : State) : Bool := decide (s.rcr - 1 = 0) && decide (s.tcr = 0)

/-- A read of the SPI status register: the value of `DONE`, and the read clears it (rule R22). -/
def readSpiStatus (s : State) : Bool × State := (s.done, { s with done := false })

/-- A write of `m` to the port `IER[b]` (rule R32). -/
def Bank.writeIer (k : Bank) (m : Word) : Bank := { k with imr := k.imr ||| m }

/-- A write of `m` to the port `IDR[b]` (rule R32). -/
def Bank.writeIdr (k : Bank) (m : Word) : Bank := { k with imr := k.imr &&& ~~~m }

/-- A read of `ISR[b]`: the value, and the read clears all 32 bits (rules R31, R151). -/
def Bank.readIsr (k : Bank) : Word × Bank := (k.isr, { k with isr := 0 })

/-- The trigger condition of a pin event; `choice` decides while no mode was ever configured (rule R148). -/
def triggers (mode : Option TrigMode) (old new choice : Bool) : Bool :=
  match mode with
  | some .rise => !old && new
  | some .fall => old && !new
  | some .high => new
  | some .low => !new
  | none => choice

/-- `w[p] <- v`. -/
def setBit (w : Word) (p : PinId) (v : Bool) : Word :=
  if v then w ||| pinMask p else w &&& ~~~pinMask p

/-- PIN_EVENT on one bank: the level is driven, and a triggering event sets the status bit (rule R148). -/
def Bank.pinEvent (k : Bank) (p : PinId) (v choice : Bool) : Bank :=
  { k with
    level := setBit k.level p v
    isr := if triggers k.mode[p] (k.level.getLsbD p) v choice then k.isr ||| pinMask p else k.isr }

end Sys2Proof.Machine
end

