-- ==== Sys2Proof/Machine/Encoder.lean ====
section
/-! DEFINITION. The Control-Word Encoder (`40_encoder.md`). -/

namespace Sys2Proof.Machine

/-- ENCODE (rule R91): respond with the packed word, or raise `ContractViolationCS` for a select with no route. -/
def execEncode (last : Bool) (cs : Byte) (payload : Half) (s : State) : Host.Outcome State Fault Refusal :=
  s.issue fun r =>
    match route cs with
    | none => .next (s.raise r .errCs (cs.setWidth 32))
    | some bits => .next (s.respond r (some (packWord last bits payload)))

end Sys2Proof.Machine
end

