-- ==== Sys2Proof/Machine/Gpio.lean ====
section
/-! DEFINITION. The GPIO interrupt dispatch mux (`43_gpio_dispatch.md`): GPIO_REGISTER with its micro-steps,
GPIO_UNREGISTER, PIN_EVENT and the per-bank dispatcher. -/

namespace Sys2Proof.Machine

/-- GPIO_REGISTER, micro-step G0 (rule R140). -/
def execGpioRegister (bank : BitVec 2) (pin : BitVec 5) (mode : TrigMode) (hook : Handle) (s : State) :
    Host.Outcome State Fault Refusal :=
  s.issue fun r =>
    match bankOf bank with
    | none => .next (s.raise r .errBank (bank.setWidth 32))
    | some b => .next ((latchRegistration s r b (pinOf pin) mode hook).setPhase r .g1)

/-- GPIO_UNREGISTER (rule R146): mask the pin; hook and mode stay. -/
def execGpioUnregister (bank : BitVec 2) (pin : BitVec 5) (s : State) : Host.Outcome State Fault Refusal :=
  s.issue fun r =>
    match bankOf bank with
    | none => .next (s.raise r .errBank (bank.setWidth 32))
    | some b => .next ((s.setBank b ((s.bank b).writeIdr (pinMask (pinOf pin)))).respond r none)

/-- G1, mask the pin during registration (rule R141). -/
def g1Mask (r : Nat) (s : State) : State :=
  let q := s.latch r
  (s.setBank q.bank ((s.bank q.bank).writeIdr (pinMask q.pin))).setPhase r .g2

/-- G2, configure the trigger condition (rule R142). -/
def g2Configure (r : Nat) (s : State) : State :=
  let q := s.latch r
  let k := s.bank q.bank
  (s.setBank q.bank { k with mode := k.mode.set q.pin (some q.mode) }).setPhase r .g3

/-- G3, install the hook (rule R143). -/
def g3Install (r : Nat) (s : State) : State :=
  let q := s.latch r
  let k := s.bank q.bank
  (s.setBank q.bank { k with hook := k.hook.set q.pin (some q.hook) }).setPhase r .g4

/-- G4, unmask and respond (rule R144). -/
def g4Unmask (r : Nat) (s : State) : State :=
  let q := s.latch r
  ((s.setBank q.bank ((s.bank q.bank).writeIer (pinMask q.pin))).respond r none).setPhase r .idle

/-- PIN_EVENT (rule R148). -/
def pinEvent (b : BankId) (p : PinId) (v choice : Bool) (s : State) : State :=
  s.setBank b ((s.bank b).pinEvent p v choice)

/-- The dispatcher's read: `status & mask` once, and the status read clears the register (rule R151). -/
def dispatcherRead (b : BankId) (s : State) : State :=
  let k := s.bank b
  let status := k.readIsr
  s.setBank b { status.2 with disp := .scan (status.1 &&& k.imr) 0 }

/-- The dispatcher phase after pin `i` was examined (rule R152). -/
def nextScan (snapshot : Word) (i : PinId) : DispatchPhase :=
  if h : i.val + 1 < 32 then .scan snapshot ⟨i.val + 1, h⟩ else .idle

/-- One scan step: the hook of pin `i` is invoked exactly when its bit is set and it has one (rule R152). -/
def dispatcherScan (b : BankId) (snapshot : Word) (i : PinId) (s : State) : State :=
  let k := s.bank b
  let t := s.setBank b { k with disp := nextScan snapshot i }
  if snapshot.getLsbD i then
    match k.hook[i] with
    | some h => t.emit (.hookInvoke b i h)
    | none => t
  else t

/-- The next step of the dispatcher of bank `b`: its entry when idle (rule R177), else what `GPIO_H[b]` names (rule
R150). -/
def dispatcherStep (b : BankId) (s : State) : State :=
  match (s.bank b).disp with
  | .idle => enterDispatcher b s
  | .entered => dispatcherRead b s
  | .scan snapshot i => dispatcherScan b snapshot i s

end Sys2Proof.Machine
end

