-- ==== Sys2Proof/Machine/Transfer.lean ====
section
/-! DEFINITION. The SPI Transfer Engine (`41_transfer_engine.md`): INIT, TRANSCEIVE with its micro-steps, the DMA data
mover, and the four control words that DMA_TX moves. -/

namespace Sys2Proof.Machine

/-- INIT (rule R100). -/
def execInit (s : State) : Host.Outcome State Fault Refusal :=
  s.issue fun r =>
    .next (State.respond
      { s with ready := true, ieDone := true, banks := s.banks.map fun k => { k with nvic := true } } r none)

/-- TRANSCEIVE, micro-step T0 (rule R102): the length check, then the tests for a request without a meaning, then the
request is latched and its requester waits for the lock. -/
def execTransceive (tx rx n : Word) (cb : Option Handle) (s : State) : Host.Outcome State Fault Refusal :=
  s.issue fun r =>
    if s.cfg.bufCap < n.toNat then .next (s.raise r .errLen n)
    else
      match transferRefusal s tx rx n with
      | some why => .refused why
      | none => .next (State.setPhase { latchTransfer s r tx rx n cb with waitq := s.waitq ++ [r] } r .t1)

/-- T1 is not blocked: the lock is free, and with `LOCK_ORDER = fifo` the requester has waited longest (rule R103). -/
def mayAcquire (s : State) (r : Nat) : Bool :=
  decide (s.lock = none) && (decide (s.cfg.lockOrder = .any) || decide (s.waitq.head? = some r))

/-- T1, acquire the lock (rule R103). -/
def t1Acquire (r : Nat) (s : State) : State :=
  State.setPhase { s with lock := some r, waitq := s.waitq.filter (· ≠ r) } r .t2

/-- T2, store the callback (rule R104). -/
def t2StoreCallback (r : Nat) (s : State) : State :=
  State.setPhase { s with cb := (s.latch r).cb } r .t3a

/-- T3A, program the descriptors (rule R105). -/
def t3aProgram (r : Nat) (s : State) : State :=
  State.setPhase { s with tpr := (s.latch r).tx, tcr := (s.latch r).n, rpr := (s.latch r).rx, rcr := (s.latch r).n } r .t3b

/-- T3B, enable the interrupt line (rule R106). -/
def t3bEnableLine (r : Nat) (s : State) : State :=
  State.setPhase { s with nvicSpi := true } r .t3c

/-- T3C, start the engine (rule R107). -/
def t3cStart (r : Nat) (s : State) : State :=
  State.setPhase { s with en := true } r .t4

/-- T4, take the completion signal (rule R108). -/
def t4TakeSignal (r : Nat) (s : State) : State :=
  State.setPhase { s with sig := false } r .t5

/-- T5, release the lock and respond (rule R109). -/
def t5Release (r : Nat) (s : State) : State :=
  (State.respond { s with lock := none } r none).setPhase r .idle

/-- The effect of DMA_TX with the word `w` it read: the word leaves unchanged and unchecked (rules R75, R110). -/
def dmaTransmit (w : Word) (s : State) : State :=
  { s.emit (.spiTx w) with tpr := s.tpr + 4, tcr := s.tcr - 1, infl := s.infl + 1 }

/-- The effect of DMA_RX with the word `v` the environment draws (rules R56, R111). -/
def dmaReceive (v : Word) (s : State) : State :=
  { s with
    mem := s.mem.writeWord s.rpr v
    rpr := s.rpr + 4
    rcr := s.rcr - 1
    infl := s.infl - 1
    done := s.done || s.lastReceive }

/-- A control word is one unit of SPI traffic: DMA_TX, when it is enabled, hands it to the SPI shifter; when not,
nothing happens (rules R70, R93, R110). -/
def moveControlWord (w : Word) (s : State) : Host.Outcome State Fault Refusal :=
  if s.dmaTxEnabled then .next (dmaTransmit w s) else .next s

/-- `CW.S0` (rules R93, R110). -/
def execCwS0 (l : Bool) (td : Half) (s : State) : Host.Outcome State Fault Refusal :=
  moveControlWord (packWord l 0x00 td) s

/-- `CW.S1` (rules R93, R110). -/
def execCwS1 (l : Bool) (td : Half) (s : State) : Host.Outcome State Fault Refusal :=
  moveControlWord (packWord l 0x01 td) s

/-- `CW.S2` (rules R93, R110). -/
def execCwS2 (l : Bool) (td : Half) (s : State) : Host.Outcome State Fault Refusal :=
  moveControlWord (packWord l 0x03 td) s

/-- `CW.S3` (rules R93, R110). -/
def execCwS3 (l : Bool) (td : Half) (s : State) : Host.Outcome State Fault Refusal :=
  moveControlWord (packWord l 0x07 td) s

end Sys2Proof.Machine
end

