-- ==== Sys2Proof/Machine/Dispatch.lean ====
section
/-! DEFINITION. The meaning of each instruction, one arm per constructor. -/

namespace Sys2Proof.Machine

def exec (i : Instr) (s : State) : Host.Outcome State Fault Refusal :=
  match i with
  | .cwS0 l td => Sys2Proof.Machine.execCwS0 l td s
  | .cwS1 l td => Sys2Proof.Machine.execCwS1 l td s
  | .cwS2 l td => Sys2Proof.Machine.execCwS2 l td s
  | .cwS3 l td => Sys2Proof.Machine.execCwS3 l td s
  | .encode last cs payload => Sys2Proof.Machine.execEncode last cs payload s
  | .transceive tx rx n cb => Sys2Proof.Machine.execTransceive tx rx n cb s
  | .gpioRegister bank pin mode hook => Sys2Proof.Machine.execGpioRegister bank pin mode hook s
  | .gpioUnregister bank pin => Sys2Proof.Machine.execGpioUnregister bank pin s
  | .init => Sys2Proof.Machine.execInit s

end Sys2Proof.Machine
end

