-- ==== Sys2Proof/Machine/SpiHandler.lean ====
section
/-! DEFINITION. The SPI completion handler, steps (a) to (d2) (`42_spi_completion_handler.md`). -/

namespace Sys2Proof.Machine

/-- Step (a): the destructive read of the status register; the value is discarded (rule R131). -/
def handlerReadStatus (s : State) : State :=
  { (readSpiStatus s).2 with spiH := .b }

/-- Step (b): invoke the pending callback, if any, and clear the slot (rule R132). -/
def handlerCallback (s : State) : State :=
  match s.cb with
  | some h => { s.emit (.cbInvoke h) with cb := none, spiH := .c }
  | none => { s with cb := none, spiH := .c }

/-- Step (c): post the completion signal (rule R133). -/
def handlerPost (s : State) : State :=
  { s with sig := true, spiH := .d1 }

/-- Step (d1): stop the engine (rule R134). -/
def handlerStopEngine (s : State) : State :=
  { s with en := false, spiH := .d2 }

/-- Step (d2): mask the line at the interrupt controller and end (rule R135). -/
def handlerMaskLine (s : State) : State :=
  leaveSpiHandler { s with nvicSpi := false }

/-- The next step of the handler: its entry when idle (rule R176), else the micro-step `SPI_H` names (rule R130). -/
def spiHandlerStep (s : State) : State :=
  match s.spiH with
  | .idle => enterSpiHandler s
  | .a => handlerReadStatus s
  | .b => handlerCallback s
  | .c => handlerPost s
  | .d1 => handlerStopEngine s
  | .d2 => handlerMaskLine s

end Sys2Proof.Machine
end

