-- ==== Sys2Proof/Machine/Agents.lean ====
section
/-! DEFINITION. The agents of rule R3: when the step of each is enabled, and what it does.  The two agents that take an
instruction fetch it here: a requester takes the next item of its script, DMA_TX reads the control word at `TPR` (rule
R63). -/

namespace Sys2Proof.Machine

/-- Requester `r` has an enabled step: no handler is active (rule R4), and its phase is not blocked (rules R103, R108);
an IDLE requester needs an item in its script (rule R230). -/
def taskEnabled (s : State) (r : Nat) : Bool :=
  match s.reqs[r]? with
  | none => false
  | some q =>
    !s.handlerActive &&
      match q.ph with
      | .idle => !q.script.isEmpty
      | .t1 => mayAcquire s r
      | .t4 => s.sig
      | _ => true

/-- The step that `m` names is enabled. -/
def State.enabled (s : State) : Move → Bool
  | .task r => taskEnabled s r
  | .dmaTx => s.dmaTxEnabled
  | .dmaRx _ => s.dmaRxEnabled
  | .spi => s.spiActive || s.spiEntryEnabled
  | .gpio b => s.dispatcherActive b || s.dispatcherEntryEnabled b
  | .pin _ _ _ _ => true

/-- The bytes of a requester's own access are all mapped (rule R54). -/
def accessMapped (s : State) (width : Width) (a : Word) : Bool :=
  (List.range width.bytes).all fun k => isMapped s.cfg (byteAddr a k)

/-- The state in which requester `r` presents its next command: the item is taken off its script and `cmd_req` is `r`
(`00_scope.md` section 6, rule R230), where it stays until the next presentation; log entry 21. -/
def presentCommand (r : Nat) (rest : List Item) (s : State) : State :=
  { s.modReq r fun q => { q with script := rest } with cmdReq := r }

/-- Requester `r` takes the next item of its script: a command is decoded and executed, an own access reads or writes
`MEM` (rules R50, R79, R230). -/
def issueItem (r : Nat) (item : Item) (rest : List Item) (s : State) : Host.Outcome State Fault Refusal :=
  match item with
  | .command p =>
    match decode (.command p) with
    | .reserved _ => .refused (.reservedCommand p.op)
    | .instr i => exec i (presentCommand r rest s)
  | .load width a =>
    if accessMapped s width a then
      .next (s.modReq r fun q => { q with script := rest, lastRead := s.mem.load width a })
    else .fault (.unmappedAccess r a)
  | .store width a v =>
    if accessMapped s width a then
      .next { s.modReq r fun q => { q with script := rest } with mem := s.mem.store width a v }
    else .fault (.unmappedAccess r a)

/-- The enabled step of requester `r`: the next item of its script, or the micro-step its phase names (rule R115). -/
def taskStep (r : Nat) (s : State) : Host.Outcome State Fault Refusal :=
  match s.reqs[r]? with
  | none => .next s
  | some q =>
    match q.ph with
    | .idle =>
      match q.script with
      | [] => .next s
      | item :: rest => issueItem r item rest s
    | .t1 => .next (t1Acquire r s)
    | .t2 => .next (t2StoreCallback r s)
    | .t3a => .next (t3aProgram r s)
    | .t3b => .next (t3bEnableLine r s)
    | .t3c => .next (t3cStart r s)
    | .t4 => .next (t4TakeSignal r s)
    | .t5 => .next (t5Release r s)
    | .g1 => .next (g1Mask r s)
    | .g2 => .next (g2Configure r s)
    | .g3 => .next (g3Install r s)
    | .g4 => .next (g4Unmask r s)

/-- The enabled DMA_TX step: the word at `TPR` is read; a well-formed control word is the instruction it encodes, a
reserved one moves unchecked (rules R63, R75, R110). -/
def dmaTxStep (s : State) : Host.Outcome State Fault Refusal :=
  match decode (.controlWord (s.mem.readWord s.tpr)) with
  | .instr i => exec i s
  | .reserved _ => .next (dmaTransmit (s.mem.readWord s.tpr) s)

/-- The enabled step of a move. -/
def fire (m : Move) (s : State) : Host.Outcome State Fault Refusal :=
  match m with
  | .task r => taskStep r s
  | .dmaTx => dmaTxStep s
  | .dmaRx v => .next (dmaReceive v s)
  | .spi => .next (spiHandlerStep s)
  | .gpio b => .next (dispatcherStep b s)
  | .pin b p v choice => .next (pinEvent b p v choice s)

/-- A move: an agent whose step is enabled takes it, a blocked agent takes no step (`00_scope.md` section 7). -/
def runMove (m : Move) (s : State) : Host.Outcome State Fault Refusal :=
  if s.enabled m then fire m s else .next s

/-- Place a command so that the very next step issues it: it heads requester 0's script, that requester is IDLE, no
handler is active and the next move is requester 0's; log entry 10. -/
def placeCommand (p : Port) (s : State) : State :=
  let reqs :=
    match s.reqs with
    | [] => [Requester.atReset [.command p]]
    | q :: rest => { q with ph := .idle, script := .command p :: q.script } :: rest
  { s with
    reqs := reqs
    spiH := .idle
    banks := s.banks.map fun k => { k with disp := .idle }
    moves := .task 0 :: s.moves }

/-- Place a control word so that the very next step moves it: it stands in `MEM` at `TPR`, the engine runs with a word
to transmit, and the next move is DMA_TX; log entry 10. -/
def placeControlWord (w : Word) (s : State) : State :=
  { s with
    mem := s.mem.writeWord s.tpr w
    en := true
    tcr := if s.tcr = 0 then 1 else s.tcr
    moves := .dmaTx :: s.moves }

/-- Place an instruction given in its raw form. -/
def placeEncoded (e : Encoded) (s : State) : State :=
  match e with
  | .controlWord w => placeControlWord w s
  | .command p => placeCommand p s

end Sys2Proof.Machine
end

