-- ==== Sys2Proof/Machine/Step.lean ====
section
/-! DEFINITION. One step of the machine: the next placed move is taken.  `moves` stands for the schedule of rule R3 and
the choices of the environment (rule R232), so every order and every choice is some value of it; log entry 4. -/

namespace Sys2Proof.Machine

/-- The next move is taken off and run; with no move placed no agent takes a step. -/
def step (s : State) : Host.Outcome State Fault Refusal :=
  match s.moves with
  | [] => .next s
  | m :: rest => runMove m { s with moves := rest }

/-- `s` with the instruction of a table word placed where the next step takes it. -/
def State.withFetchWord (s : State) (nbits w : Nat) : State :=
  match tableForm nbits w with
  | none => s
  | some e => placeEncoded e s

end Sys2Proof.Machine
end

