-- ==== Sys2Proof/Safety.lean ====
section
/-! DEFINITION. What the claims are stated with: the whole-machine invariants the spec names (rules R17, R18, R35, R109,
R111, R114, R153), the end of a run and the hang of rule R231, and the environment's moves. -/

namespace Sys2Proof.Machine

/-- The phases T2 to T5: the requester's transfer is in flight (rule R17). -/
def Phase.inFlight : Phase → Bool
  | .t2 | .t3a | .t3b | .t3c | .t4 | .t5 => true
  | _ => false

/-- The phases T1 to T5: the requester has an accepted TRANSCEIVE (rule R102). -/
def Phase.transferring (p : Phase) : Bool := decide (p = .t1) || p.inFlight

/-- At most one transfer is in flight, and its requester is the one `LOCK` names (rules R17, R114 item (1)). -/
def MutualExclusion (s : State) : Prop :=
  ∀ r, (s.phase r).inFlight = true ↔ s.lock = some r

/-- `WAITQ` lists, once each, exactly the requesters waiting for the lock (rule R17). -/
def WaitersListed (s : State) : Prop :=
  s.waitq.Nodup ∧ ∀ r, r ∈ s.waitq ↔ s.phase r = .t1

/-- The latched request passed every check of T0 (rules R53, R54, R102). -/
def Latch.accepted (q : Latch) (cfg : Params) : Prop :=
  q.n ≠ 0 ∧ q.n.toNat ≤ cfg.bufCap ∧ isAligned q.tx = true ∧ isAligned q.rx = true ∧
    regionFits q.tx q.n.toNat = true ∧ regionFits q.rx q.n.toNat = true ∧
    regionsMeet q.tx q.rx q.n.toNat = false ∧
    allMapped cfg q.tx.toNat (4 * q.n.toNat) = true ∧ allMapped cfg q.rx.toNat (4 * q.n.toNat) = true

/-- Every request being served was accepted, after INIT (rules R102, R210). -/
def RequestsAccepted (s : State) : Prop :=
  ∀ r, (s.phase r).transferring = true → s.ready = true ∧ (s.latch r).accepted s.cfg

/-- The three enables that INIT sets agree (rule R100). -/
def EnablesAgree (s : State) : Prop :=
  s.ieDone = s.ready ∧ ∀ b : BankId, (s.bank b).nvic = s.ready

/-- The engine is stopped with nothing pending, nothing posted and no handler running (rules R19, R35). -/
def EngineStopped (s : State) : Prop :=
  s.en = false ∧ s.done = false ∧ s.sig = false ∧ s.infl = 0 ∧ s.spiH = .idle

/-- The descriptors stand at their progress through the buffers of the request (rules R53, R110 to R112): word `k` is at
`tx + 4k` and at `rx + 4k`. -/
def DescriptorsAt (s : State) (q : Latch) : Prop :=
  s.tcr.toNat ≤ q.n.toNat ∧ s.rcr.toNat ≤ q.n.toNat ∧
    s.tpr = q.tx + BitVec.ofNat 32 (4 * (q.n.toNat - s.tcr.toNat)) ∧
    s.rpr = q.rx + BitVec.ofNat 32 (4 * (q.n.toNat - s.rcr.toNat))

/-- The descriptors are programmed and no word has moved (rule R105). -/
def JustProgrammed (s : State) (q : Latch) : Prop :=
  s.tcr = q.n ∧ s.rcr = q.n ∧ DescriptorsAt s q

/-- Every word has moved (rule R111). -/
def AllMoved (s : State) (q : Latch) : Prop :=
  s.tcr = 0 ∧ s.rcr = 0 ∧ s.infl = 0 ∧ DescriptorsAt s q

/-- The states of a started transfer whose requester waits in T4, by the phase of the completion handler (rules R108 to
R111, R130 to R135). -/
def TransferRunning (s : State) (q : Latch) : Prop :=
  match s.spiH with
  | .idle =>
    if s.sig = true then
      s.en = false ∧ s.nvicSpi = false ∧ s.done = false ∧ s.cb = none ∧ AllMoved s q
    else
      s.en = true ∧ s.nvicSpi = true ∧ s.cb = q.cb ∧ s.tcr.toNat + s.infl = s.rcr.toNat ∧
        (s.done = true ↔ s.rcr = 0) ∧ DescriptorsAt s q
  | .a =>
    s.en = true ∧ s.nvicSpi = true ∧ s.done = true ∧ s.sig = false ∧ s.cb = q.cb ∧ AllMoved s q
  | .b =>
    s.en = true ∧ s.nvicSpi = true ∧ s.done = false ∧ s.sig = false ∧ s.cb = q.cb ∧ AllMoved s q
  | .c =>
    s.en = true ∧ s.nvicSpi = true ∧ s.done = false ∧ s.sig = false ∧ s.cb = none ∧ AllMoved s q
  | .d1 =>
    s.en = true ∧ s.nvicSpi = true ∧ s.done = false ∧ s.sig = true ∧ s.cb = none ∧ AllMoved s q
  | .d2 =>
    s.en = false ∧ s.nvicSpi = true ∧ s.done = false ∧ s.sig = true ∧ s.cb = none ∧ AllMoved s q

/-- The engine is in step with the phase of the requester that holds the lock (rules R103 to R113, R130 to R135). -/
def EngineFollowsLock (s : State) : Prop :=
  match s.lock with
  | none => EngineStopped s ∧ s.nvicSpi = false ∧ s.cb = none
  | some h =>
    match s.phase h with
    | .t2 => EngineStopped s ∧ s.nvicSpi = false ∧ s.cb = none
    | .t3a => EngineStopped s ∧ s.nvicSpi = false ∧ s.cb = (s.latch h).cb
    | .t3b => EngineStopped s ∧ s.nvicSpi = false ∧ s.cb = (s.latch h).cb ∧ JustProgrammed s (s.latch h)
    | .t3c => EngineStopped s ∧ s.nvicSpi = true ∧ s.cb = (s.latch h).cb ∧ JustProgrammed s (s.latch h)
    | .t4 => TransferRunning s (s.latch h)
    | .t5 => EngineStopped s ∧ s.nvicSpi = false ∧ s.cb = none ∧ AllMoved s (s.latch h)
    | _ => True

/-- An unmasked pin has a hook; so has the pin a registration is about to unmask and every pin still to be scanned of a
snapshot (rule R153). -/
def HooksBehindMask (s : State) : Prop :=
  (∀ (b : BankId) (p : PinId), (s.bank b).imr.getLsbD p = true → (s.bank b).hook[p] ≠ none) ∧
  (∀ r, s.phase r = .g4 → (s.bank (s.latch r).bank).hook[(s.latch r).pin] ≠ none) ∧
  (∀ (b : BankId) (snapshot : Word) (i : PinId), (s.bank b).disp = .scan snapshot i →
    ∀ p : PinId, snapshot.getLsbD p = true → (s.bank b).hook[p] ≠ none)

/-- Everything the spec says always holds of a running block. -/
structure SystemInv (s : State) : Prop where
  parameters : s.cfg.wellFormed = true
  memory     : Memory.wf s.mem
  exclusion  : MutualExclusion s
  waiters    : WaitersListed s
  requests   : RequestsAccepted s
  enables    : EnablesAgree s
  engine     : EngineFollowsLock s
  hooks      : HooksBehindMask s

/-- The moves of the environment (rules R3, R232). -/
def isEnvironmentMove : Move → Bool
  | .pin _ _ _ _ => true
  | _ => false

/-- The move has an IDLE requester present, as the next item of its script, a command that decodes to `i` (rules R76,
R230). -/
def State.presents (s : State) (m : Move) (i : Instr) : Prop :=
  ∃ r q p items, m = .task r ∧ s.reqs[r]? = some q ∧ q.ph = .idle ∧ q.script = .command p :: items ∧
    decode (.command p) = .instr i

/-- The received word that a move draws (rule R56). -/
def drawnWord : Move → Option Word
  | .dmaRx v => some v
  | _ => none

/-- An interleaving of the two DMA steps that moves as many words as `draws` has: it draws these words in order, and the
`k`-th DMA_RX comes after the `k`-th DMA_TX (rules R35, R110, R111). -/
def DmaSchedule (schedule : List Move) (draws : List Word) : Prop :=
  (∀ m ∈ schedule, m = .dmaTx ∨ ∃ v, m = .dmaRx v) ∧ schedule.filterMap drawnWord = draws ∧
    schedule.count .dmaTx = draws.length ∧
    ∀ k, ((schedule.take k).filterMap drawnWord).length ≤ (schedule.take k).count .dmaTx

/-- A hang: a requester is blocked and no agent but the environment has an enabled step (rule R231). -/
def State.hung (s : State) : Prop :=
  (∃ r, s.phase r = .t1 ∨ s.phase r = .t4) ∧ ∀ m, s.enabled m = true → isEnvironmentMove m = true

/-- The run is over (rule R231). -/
def State.over (s : State) : Prop :=
  (∀ q ∈ s.reqs, q.ph = .idle ∧ q.script = []) ∧ s.lock = none ∧ s.waitq = [] ∧ s.en = false ∧ s.infl = 0 ∧
    s.done = false ∧ s.sig = false ∧ s.cb = none ∧ s.nvicSpi = false ∧ s.spiH = .idle ∧
    ∀ b : BankId, (s.bank b).disp = .idle

end Sys2Proof.Machine
end

