-- ==== Sys2Proof/Certificates/Slice0/Obligations.lean ====
section
/-! DEFINITION. The statements for the provers.  Step statements give the whole next state, so that what a rule does not
write is stated to be unchanged; `moves := rest` there is only the schedule's own advance (log entry 4). -/

open Sys2Proof Sys2Proof.Machine

/-! ### Encodings -/

/-- Decoding what the encoder writes gives the instruction back, with every operand at every value (rules R70 to R78,
R94 law (1)). -/
def Obligations.DecodeInvertsEncode : Prop :=
  ∀ i : Instr, decode (encode i) = .instr i

/-- A control word has one reading: encoding what it decodes to gives the word back (rule R94 law (2)). -/
def Obligations.ControlWordHasOneReading : Prop :=
  ∀ (w : Word) (i : Instr), decode (.controlWord w) = .instr i → encode i = .controlWord w

/-- A word is a control word exactly when `w[31:25] = 0` and `w[23:16]` is 0, 1, 3 or 7, and these are exactly the words
ENCODE packs from a select that has a route (rule R74, R94 law (3)). -/
def Obligations.ControlWordClasses : Prop :=
  ∀ w : Word,
    ((∃ i, decode (.controlWord w) = .instr i) ↔
      (w >>> 25 = 0#32 ∧
        ((w >>> 16) &&& 0xFF#32 = 0#32 ∨ (w >>> 16) &&& 0xFF#32 = 1#32 ∨
          (w >>> 16) &&& 0xFF#32 = 3#32 ∨ (w >>> 16) &&& 0xFF#32 = 7#32))) ∧
    ((∃ i, decode (.controlWord w) = .instr i) ↔
      ∃ (last : Bool) (cs bits : Byte) (payload : Half), route cs = some bits ∧ w = packWord last bits payload)

/-- The route table: 0, 1, 3, 7 for selects 0 to 3, over the whole word 0, 0x00010000, 0x00030000, 0x00070000; in closed
form `(1 << cs) - 1`; no other select has a route (rule R72). -/
def Obligations.RouteTable : Prop :=
  route 0 = some 0x00 ∧ route 1 = some 0x01 ∧ route 2 = some 0x03 ∧ route 3 = some 0x07 ∧
    (∀ cs : Byte, cs.toNat ≤ 3 → route cs = some ((1#8 <<< cs.toNat) - 1)) ∧
    (∀ cs : Byte, 3 < cs.toNat → route cs = none) ∧
    packWord false 0x00 0 = 0x00000000 ∧ packWord false 0x01 0 = 0x00010000 ∧
    packWord false 0x03 0 = 0x00030000 ∧ packWord false 0x07 0 = 0x00070000

/-- `cmd_mode`: 0 RISE, 1 FALL, 2 HIGH, 3 LOW, all four valid (rule R78). -/
def Obligations.ModeEncoding : Prop :=
  decodeMode 0 = .rise ∧ decodeMode 1 = .fall ∧ decodeMode 2 = .high ∧ decodeMode 3 = .low ∧
    (∀ (p : Port), p.op = 3 → decode (.command p) = .instr (.gpioRegister p.bank p.pin (decodeMode p.mode) p.hook)) ∧
    ∀ m : TrigMode, decodeMode (encodeMode m) = m

/-- Sample words of every row of the opcode table decode to the row's instruction (rules R70, R76; vectors V-D1 to
V-D6).  That an 8-bit table word is `cmd_op` with 0 on every operand port is the model's choice, log entry 13. -/
def Obligations.SampleWordsDecode : Prop :=
  decodeTableWord 32 0x00000000 = some (.cwS0 false 0) ∧
    decodeTableWord 32 0x0101002C = some (.cwS1 true 0x002C) ∧
    decodeTableWord 32 0x0003ABCD = some (.cwS2 false 0xABCD) ∧
    decodeTableWord 32 0x0107FFFF = some (.cwS3 true 0xFFFF) ∧
    decodeTableWord 32 0x01000000 = some (.cwS0 true 0) ∧
    decodeTableWord 32 0x00020000 = none ∧
    decodeTableWord 8 1 = some (.encode false 0 0) ∧
    decodeTableWord 8 2 = some (.transceive 0 0 0 none) ∧
    decodeTableWord 8 3 = some (.gpioRegister 0 0 .rise ⟨0⟩) ∧
    decodeTableWord 8 4 = some (.gpioUnregister 0 0) ∧
    decodeTableWord 8 5 = some .init ∧
    decodeTableWord 8 6 = none

/-- The operation codes 0x0 and 0x6 to 0xF name no command whatever the operand ports hold, and a script that presents
one is refused (rules R76, R79). -/
def Obligations.ReservedOperationsRefused : Prop :=
  (∀ p : Port, (∃ why, decode (.command p) = .reserved why) ↔ (p.op = 0 ∨ 6 ≤ p.op.toNat)) ∧
  ∀ (s : State) (r : Nat) (q : Requester) (p : Port) (items : List Item) (rest : List Move),
    s.moves = .task r :: rest → s.handlerActive = false → s.reqs[r]? = some q → q.ph = .idle →
    q.script = .command p :: items → (p.op = 0 ∨ 6 ≤ p.op.toNat) →
    step s = .refused (.reservedCommand p.op)

/-! ### What each instruction does -/

/-- ENCODE, operation code 0x1, completes in every state in which its requester is IDLE and no handler is active:
selects 0 to 3 give the word `(last << 24) | (route << 16) | payload` with route 0, 1, 3, 7; any other select is the
contract violation `ERR_CS` with the select as its information and no word; nothing but the trace changes (rule R91). -/
def Obligations.EncodeResult : Prop :=
  (∀ p : Port, p.op = 1 → decode (.command p) = .instr (.encode (p.last == 1) p.cs p.payload)) ∧
  ∀ (s : State) (q : Requester) (last : Bool) (cs : Byte) (payload : Half),
    s.reqs[s.cmdReq]? = some q → q.ph = .idle → s.handlerActive = false →
    let word : Word → Word := fun bits =>
      (if last then 0x01000000#32 else 0#32) ||| (bits <<< 16) ||| payload.setWidth 32
    let ok : Word → Host.Outcome State Fault Refusal := fun w =>
      .next { s with trace := s.trace ++ [.rsp s.cmdReq .ok 0 (some w)] }
    (cs = 0 → exec (.encode last cs payload) s = ok (word 0)) ∧
    (cs = 1 → exec (.encode last cs payload) s = ok (word 1)) ∧
    (cs = 2 → exec (.encode last cs payload) s = ok (word 3)) ∧
    (cs = 3 → exec (.encode last cs payload) s = ok (word 7)) ∧
    (3 < cs.toNat → exec (.encode last cs payload) s =
      .next { s with trace := s.trace ++ [.rsp s.cmdReq .errCs (cs.setWidth 32) none] })

/-- ENCODE is a pure function: in any two states in which it acts, it appends one response with the same code,
information and word, and changes nothing else (rule R90). -/
def Obligations.EncodeDependsOnOperandsAlone : Prop :=
  ∀ (s₁ s₂ : State) (q₁ q₂ : Requester) (last : Bool) (cs : Byte) (payload : Half),
    s₁.reqs[s₁.cmdReq]? = some q₁ → q₁.ph = .idle → s₁.handlerActive = false →
    s₂.reqs[s₂.cmdReq]? = some q₂ → q₂.ph = .idle → s₂.handlerActive = false →
    ∃ (code : RspCode) (info : Word) (word : Option Word),
      exec (.encode last cs payload) s₁ =
        .next { s₁ with trace := s₁.trace ++ [.rsp s₁.cmdReq code info word] } ∧
      exec (.encode last cs payload) s₂ =
        .next { s₂ with trace := s₂.trace ++ [.rsp s₂.cmdReq code info word] }

/-- INIT, operation code 0x5, sets READY, IE_DONE and the three GPIO lines, responds OK and changes nothing else; where
all five are already 1 it only responds (rule R100). -/
def Obligations.InitResult : Prop :=
  (∀ p : Port, p.op = 5 → decode (.command p) = .instr .init) ∧
  ∀ (s : State) (q : Requester),
    s.reqs[s.cmdReq]? = some q → q.ph = .idle → s.handlerActive = false →
    exec .init s =
      .next { s with
        ready := true, ieDone := true
        banks := #v[{ s.bank 0 with nvic := true }, { s.bank 1 with nvic := true }, { s.bank 2 with nvic := true }]
        trace := s.trace ++ [.rsp s.cmdReq .ok 0 none] } ∧
    (s.ready = true → s.ieDone = true → (∀ b : BankId, (s.bank b).nvic = true) →
      exec .init s = .next { s with trace := s.trace ++ [.rsp s.cmdReq .ok 0 none] })

/-- TRANSCEIVE at T0: a length over `BUF_CAP` is the violation `ERR_LEN` before every other test; then, in this order,
before INIT, length 0, a misaligned address, a region past the top, overlapping regions and an unmapped byte have no
meaning; any other request is latched, its requester queued and moved to T1 (rules R102, R172).  That the fields of the
latch a GPIO_REGISTER uses keep their values is the model's choice, log entry 5. -/
def Obligations.TransceiveIssue : Prop :=
  ∀ (s : State) (q : Requester) (tx rx n : Word) (cb : Option Handle),
    s.reqs[s.cmdReq]? = some q → q.ph = .idle → s.handlerActive = false →
    let ready := s.ready = true
    let aligned := tx.toNat % 4 = 0 ∧ rx.toNat % 4 = 0
    let fits := tx.toNat + 4 * n.toNat ≤ 2 ^ 32 ∧ rx.toNat + 4 * n.toNat ≤ 2 ^ 32
    let disjoint := tx.toNat + 4 * n.toNat ≤ rx.toNat ∨ rx.toNat + 4 * n.toNat ≤ tx.toNat
    let mapped := ∀ k < 4 * n.toNat, isMapped s.cfg (tx.toNat + k) = true ∧ isMapped s.cfg (rx.toNat + k) = true
    (s.cfg.bufCap < n.toNat → exec (.transceive tx rx n cb) s =
      .next { s with trace := s.trace ++ [.rsp s.cmdReq .errLen n none] }) ∧
    (n.toNat ≤ s.cfg.bufCap →
      (¬ ready → exec (.transceive tx rx n cb) s = .refused .notReady) ∧
      (ready → n = 0 → exec (.transceive tx rx n cb) s = .refused .zeroLength) ∧
      (ready → n ≠ 0 → ¬ aligned → exec (.transceive tx rx n cb) s = .refused .misalignedBuffer) ∧
      (ready → n ≠ 0 → aligned → ¬ fits → exec (.transceive tx rx n cb) s = .refused .regionPastTop) ∧
      (ready → n ≠ 0 → aligned → fits → ¬ disjoint → exec (.transceive tx rx n cb) s = .refused .regionsOverlap) ∧
      (ready → n ≠ 0 → aligned → fits → disjoint → ¬ mapped →
        exec (.transceive tx rx n cb) s = .refused .regionNotMapped) ∧
      (ready → n ≠ 0 → aligned → fits → disjoint → mapped →
        exec (.transceive tx rx n cb) s =
          .next { s with
            reqs := s.reqs.set s.cmdReq
              { q with ph := .t1, req := { q.req with tx := tx, rx := rx, n := n.setWidth 16, cb := cb } }
            waitq := s.waitq ++ [s.cmdReq] }))

/-- GPIO_REGISTER at G0: bank 3 is the violation `ERR_BANK`; any other bank, with every pin and mode, is latched and its
requester moves to G1 (rules R140, R178).  That the fields of the latch a TRANSCEIVE uses keep their values is the
model's choice, log entry 5. -/
def Obligations.GpioRegisterIssue : Prop :=
  ∀ (s : State) (q : Requester) (bank : BitVec 2) (pin : BitVec 5) (mode : TrigMode) (hook : Handle),
    s.reqs[s.cmdReq]? = some q → q.ph = .idle → s.handlerActive = false →
    (bank = 3 → exec (.gpioRegister bank pin mode hook) s =
      .next { s with trace := s.trace ++ [.rsp s.cmdReq .errBank 3 none] }) ∧
    (∀ b : BankId, bank.toNat = b.val → exec (.gpioRegister bank pin mode hook) s =
      .next { s with
        reqs := s.reqs.set s.cmdReq
          { q with ph := .g1, req := { q.req with bank := b, pin := ⟨pin.toNat, pin.isLt⟩, mode := mode, hook := hook } } })

/-- GPIO_UNREGISTER masks the pin and responds OK, leaving hook, mode, status and every other pin and bank; bank 3 is
the violation `ERR_BANK` (rules R146, R178). -/
def Obligations.GpioUnregisterResult : Prop :=
  ∀ (s : State) (q : Requester) (bank : BitVec 2) (pin : BitVec 5),
    s.reqs[s.cmdReq]? = some q → q.ph = .idle → s.handlerActive = false →
    (bank = 3 → exec (.gpioUnregister bank pin) s =
      .next { s with trace := s.trace ++ [.rsp s.cmdReq .errBank 3 none] }) ∧
    (∀ b : BankId, bank.toNat = b.val → exec (.gpioUnregister bank pin) s =
      .next { s with
        banks := s.banks.set b { s.bank b with imr := (s.bank b).imr &&& ~~~(1#32 <<< pin.toNat) }
        trace := s.trace ++ [.rsp s.cmdReq .ok 0 none] })

/-- The four control words: while DMA_TX is enabled each leaves for the shifter as the word rule R70 gives it, `TPR`
advances by 4, `TCR` by -1, `INFL` by 1, and nothing else changes; while it is not, nothing happens (rules R70, R93,
R110). -/
def Obligations.ControlWordMoves : Prop :=
  ∀ (s : State) (l : Bool) (td : Half),
    let word : Word → Word := fun bits =>
      (if l then 0x01000000#32 else 0#32) ||| (bits <<< 16) ||| td.setWidth 32
    let moved : Word → Host.Outcome State Fault Refusal := fun w =>
      .next { s with
        trace := s.trace ++ [.spiTx w], tpr := s.tpr + 4, tcr := s.tcr - 1, infl := s.infl + 1 }
    (s.en = true → s.tcr ≠ 0 →
      exec (.cwS0 l td) s = moved (word 0) ∧ exec (.cwS1 l td) s = moved (word 1) ∧
      exec (.cwS2 l td) s = moved (word 3) ∧ exec (.cwS3 l td) s = moved (word 7)) ∧
    (s.en = false ∨ s.tcr = 0 →
      exec (.cwS0 l td) s = .next s ∧ exec (.cwS1 l td) s = .next s ∧
      exec (.cwS2 l td) s = .next s ∧ exec (.cwS3 l td) s = .next s)

/-- A command whose requester is not IDLE is refused; one whose requester is IDLE waits, with no effect, while some
handler is active (rules R4, R79). -/
def Obligations.CommandBusyOrWaiting : Prop :=
  ∀ (s : State) (q : Requester) (i : Instr),
    (∀ l td, i ≠ .cwS0 l td ∧ i ≠ .cwS1 l td ∧ i ≠ .cwS2 l td ∧ i ≠ .cwS3 l td) →
    s.reqs[s.cmdReq]? = some q →
    (q.ph ≠ .idle → exec i s = .refused (.requesterBusy s.cmdReq)) ∧
    (q.ph = .idle → (s.spiH ≠ .idle ∨ ∃ b : BankId, (s.bank b).disp ≠ .idle) → exec i s = .next s)

/-- A contract violation is precise: if an instruction's response carries a code other than OK, the response has no word
and no state element changed; there is one response at most (rules R170, R182). -/
def Obligations.ViolationChangesNothing : Prop :=
  ∀ (i : Instr) (s t : State) (r : Nat) (code : RspCode) (info : Word) (word : Option Word) (es : List Event),
    exec i s = .next t → t.trace = s.trace ++ es → .rsp r code info word ∈ es →
    es = [.rsp r code info word] ∧ r = s.cmdReq ∧
      (code ≠ .ok → word = none ∧ t = { s with trace := t.trace })

/-- The frame of the five commands: none moves a byte of memory, touches the engine's registers, the lock, the signal or
a handler, or another requester; only INIT changes a GPIO line enable and only GPIO_UNREGISTER a mask; no command
changes status, modes, hooks or levels (rules R39, R90, R100, R102, R140, R146). -/
def Obligations.CommandFrame : Prop :=
  ∀ (i : Instr) (s t : State),
    (∀ l td, i ≠ .cwS0 l td ∧ i ≠ .cwS1 l td ∧ i ≠ .cwS2 l td ∧ i ≠ .cwS3 l td) →
    exec i s = .next t →
    (∀ a, Memory.readByte t.mem a = Memory.readByte s.mem a) ∧
    t.tpr = s.tpr ∧ t.tcr = s.tcr ∧ t.rpr = s.rpr ∧ t.rcr = s.rcr ∧ t.infl = s.infl ∧
    t.en = s.en ∧ t.done = s.done ∧ t.sig = s.sig ∧ t.nvicSpi = s.nvicSpi ∧ t.cb = s.cb ∧ t.spiH = s.spiH ∧
    t.lock = s.lock ∧ (∀ r, r ≠ s.cmdReq → t.reqs[r]? = s.reqs[r]?) ∧
    (i ≠ .init → t.ready = s.ready ∧ t.ieDone = s.ieDone ∧ ∀ b : BankId, (t.bank b).nvic = (s.bank b).nvic) ∧
    ((∀ bank pin, i ≠ .gpioUnregister bank pin) → ∀ b : BankId, (t.bank b).imr = (s.bank b).imr) ∧
    ((∀ tx rx n cb, i ≠ .transceive tx rx n cb) → t.waitq = s.waitq) ∧
    (∀ b : BankId, (t.bank b).isr = (s.bank b).isr ∧ (t.bank b).mode = (s.bank b).mode ∧
      (t.bank b).hook = (s.bank b).hook ∧ (t.bank b).level = (s.bank b).level ∧ (t.bank b).disp = (s.bank b).disp)

/-! ### A step runs the decoded instruction -/

/-- An IDLE requester whose next script item is a command that decodes to `i` runs exactly `i`: the item is taken off
its script and `cmd_req` names it (rules R76, R230). -/
def Obligations.StepRunsDecodedCommand : Prop :=
  ∀ (s : State) (r : Nat) (q : Requester) (p : Port) (i : Instr) (items : List Item) (rest : List Move),
    s.moves = .task r :: rest → s.handlerActive = false → s.reqs[r]? = some q → q.ph = .idle →
    q.script = .command p :: items → decode (.command p) = .instr i →
    step s = exec i { s with moves := rest, reqs := s.reqs.set r { q with script := items }, cmdReq := r }

/-- DMA_TX runs the control word that the bytes at `TPR` encode (rules R63, R110). -/
def Obligations.StepRunsDecodedControlWord : Prop :=
  ∀ (s : State) (i : Instr) (rest : List Move),
    s.moves = .dmaTx :: rest → s.en = true → s.tcr ≠ 0 →
    decode (.controlWord (s.mem.readWord s.tpr)) = .instr i →
    step s = exec i { s with moves := rest }

/-! ### The DMA data mover -/

/-- DMA_TX hands the word at `TPR` to the shifter unchanged and unchecked, well-formed or reserved; it is blocked while
`EN = 0` or `TCR = 0` (rules R75, R110, R113). -/
def Obligations.DmaTxMovesEveryWord : Prop :=
  ∀ (s : State) (rest : List Move), s.moves = .dmaTx :: rest →
    (s.en = true → s.tcr ≠ 0 → step s =
      .next { s with
        moves := rest, trace := s.trace ++ [.spiTx (s.mem.readWord s.tpr)]
        tpr := s.tpr + 4, tcr := s.tcr - 1, infl := s.infl + 1 }) ∧
    (s.en = false ∨ s.tcr = 0 → step s = .next { s with moves := rest })

/-- DMA_RX stores the drawn word, whatever it is, at `RPR`, and sets `DONE` with the last one; it is blocked while
`EN = 0`, `RCR = 0` or nothing is in flight (rules R56, R111, R113). -/
def Obligations.DmaRxStoresDrawnWord : Prop :=
  ∀ (s : State) (draw : Word) (rest : List Move), s.moves = .dmaRx draw :: rest →
    (s.en = true → s.rcr ≠ 0 → 0 < s.infl → step s =
      .next { s with
        moves := rest, mem := s.mem.writeWord s.rpr draw
        rpr := s.rpr + 4, rcr := s.rcr - 1, infl := s.infl - 1
        done := if s.rcr = 1 ∧ s.tcr = 0 then true else s.done }) ∧
    (s.en = false ∨ s.rcr = 0 ∨ s.infl = 0 → step s = .next { s with moves := rest })

/-- Words are little-endian: the four bytes of a stored word, lowest address first, are bits 7:0 to 31:24; a read
assembles them the same way, so a stored word reads back; every other byte reads as before.  A requester's access of
one, two or four bytes sees and stores its bytes as laid out there (rule R50); that a narrow read is extended with zeros
is the model's choice, log entry 12. -/
def Obligations.WordsAreLittleEndian : Prop :=
  ∀ (m : Memory) (a v : Word), Memory.wf m →
    (∀ k < 4, (m.writeWord a v).readByte (a + BitVec.ofNat 32 k).toNat = v.extractLsb' (8 * k) 8) ∧
    (∀ x, (∀ k < 4, x ≠ (a + BitVec.ofNat 32 k).toNat) → (m.writeWord a v).readByte x = m.readByte x) ∧
    (∀ k < 4, (m.readWord a).extractLsb' (8 * k) 8 = m.readByte (a + BitVec.ofNat 32 k).toNat) ∧
    (m.writeWord a v).readWord a = v ∧
    ∀ width : Width,
      (∀ k < width.bytes, (m.store width a v).readByte (a + BitVec.ofNat 32 k).toNat = v.extractLsb' (8 * k) 8) ∧
      (∀ x, (∀ k < width.bytes, x ≠ (a + BitVec.ofNat 32 k).toNat) →
        (m.store width a v).readByte x = m.readByte x) ∧
      (∀ k < 4, (m.load width a).extractLsb' (8 * k) 8 =
        if k < width.bytes then m.readByte (a + BitVec.ofNat 32 k).toNat else 0)

/-- A requester's own reads and writes of `MEM`: a mapped access takes its item off the script and reads, or stores the
low bytes, laid out as WordsAreLittleEndian states; an access with an unmapped byte stops (rules R50, R54, R230).  The
model's choices: that a read's value is kept in `lastRead`, its own field, log entry 6; the treatment of an unmapped
access, log entry 7; the widths and alignment, log entry 12. -/
def Obligations.RequesterOwnAccess : Prop :=
  ∀ (s : State) (r : Nat) (q : Requester) (width : Width) (a v : Word) (items : List Item) (rest : List Move),
    s.moves = .task r :: rest → s.handlerActive = false → s.reqs[r]? = some q → q.ph = .idle →
    let mapped := ∀ k < width.bytes, isMapped s.cfg (a + BitVec.ofNat 32 k).toNat = true
    (q.script = .load width a :: items → mapped → step s =
      .next { s with
        moves := rest, reqs := s.reqs.set r { q with script := items, lastRead := s.mem.load width a } }) ∧
    (q.script = .store width a v :: items → mapped → step s =
      .next { s with
        moves := rest, reqs := s.reqs.set r { q with script := items }, mem := s.mem.store width a v }) ∧
    ((q.script = .load width a :: items ∨ q.script = .store width a v :: items) → ¬ mapped →
      step s = .fault (.unmappedAccess r a))

/-! ### The micro-steps of TRANSCEIVE and GPIO_REGISTER -/

/-- T1: with the lock free, and with `LOCK_ORDER = fifo` only for the longest-waiting requester, the requester acquires
it and leaves the queue; else it is blocked (rule R103). -/
def Obligations.AcquireLock : Prop :=
  ∀ (s : State) (r : Nat) (q : Requester) (rest : List Move),
    s.moves = .task r :: rest → s.handlerActive = false → s.reqs[r]? = some q → q.ph = .t1 →
    let free := s.lock = none ∧ (s.cfg.lockOrder = .any ∨ s.waitq.head? = some r)
    (free → step s =
      .next { s with
        moves := rest, lock := some r, waitq := s.waitq.filter (· ≠ r), reqs := s.reqs.set r { q with ph := .t2 } }) ∧
    (¬ free → step s = .next { s with moves := rest })

/-- T2 stores the request's callback or `none`, T3A programs the four descriptor registers, T3B enables the line, T3C
starts the engine, each moving to the next phase and changing nothing else (rules R104 to R107). -/
def Obligations.ProgramAndStart : Prop :=
  ∀ (s : State) (r : Nat) (q : Requester) (rest : List Move),
    s.moves = .task r :: rest → s.handlerActive = false → s.reqs[r]? = some q →
    (q.ph = .t2 → step s =
      .next { s with moves := rest, cb := q.req.cb, reqs := s.reqs.set r { q with ph := .t3a } }) ∧
    (q.ph = .t3a → step s =
      .next { s with
        moves := rest, tpr := q.req.tx, tcr := q.req.n, rpr := q.req.rx, rcr := q.req.n
        reqs := s.reqs.set r { q with ph := .t3b } }) ∧
    (q.ph = .t3b → step s =
      .next { s with moves := rest, nvicSpi := true, reqs := s.reqs.set r { q with ph := .t3c } }) ∧
    (q.ph = .t3c → step s =
      .next { s with moves := rest, en := true, reqs := s.reqs.set r { q with ph := .t4 } })

/-- T4 takes the completion signal and is blocked without it; T5 releases the lock, responds OK and ends the command
(rules R108, R109). -/
def Obligations.WaitAndRelease : Prop :=
  ∀ (s : State) (r : Nat) (q : Requester) (rest : List Move),
    s.moves = .task r :: rest → s.handlerActive = false → s.reqs[r]? = some q →
    (q.ph = .t4 → s.sig = true → step s =
      .next { s with moves := rest, sig := false, reqs := s.reqs.set r { q with ph := .t5 } }) ∧
    (q.ph = .t4 → s.sig = false → step s = .next { s with moves := rest }) ∧
    (q.ph = .t5 → step s =
      .next { s with
        moves := rest, lock := none, trace := s.trace ++ [.rsp r .ok 0 none]
        reqs := s.reqs.set r { q with ph := .idle } })

/-- G1 masks the pin, G2 sets its mode, G3 installs its hook, G4 unmasks it and responds OK; no other pin, bank, status
bit or level changes (rules R141 to R144). -/
def Obligations.RegistrationSteps : Prop :=
  ∀ (s : State) (r : Nat) (q : Requester) (rest : List Move),
    s.moves = .task r :: rest → s.handlerActive = false → s.reqs[r]? = some q →
    let b := q.req.bank
    let p := q.req.pin
    let k := s.bank b
    (q.ph = .g1 → step s =
      .next { s with
        moves := rest, banks := s.banks.set b { k with imr := k.imr &&& ~~~(1#32 <<< p.val) }
        reqs := s.reqs.set r { q with ph := .g2 } }) ∧
    (q.ph = .g2 → step s =
      .next { s with
        moves := rest, banks := s.banks.set b { k with mode := k.mode.set p (some q.req.mode) }
        reqs := s.reqs.set r { q with ph := .g3 } }) ∧
    (q.ph = .g3 → step s =
      .next { s with
        moves := rest, banks := s.banks.set b { k with hook := k.hook.set p (some q.req.hook) }
        reqs := s.reqs.set r { q with ph := .g4 } }) ∧
    (q.ph = .g4 → step s =
      .next { s with
        moves := rest, banks := s.banks.set b { k with imr := k.imr ||| (1#32 <<< p.val) }
        trace := s.trace ++ [.rsp r .ok 0 none], reqs := s.reqs.set r { q with ph := .idle } })

/-- While any handler is active no requester takes a step of any kind (rule R4). -/
def Obligations.HandlersExcludeTasks : Prop :=
  ∀ (s : State) (r : Nat) (rest : List Move),
    s.moves = .task r :: rest → (s.spiH ≠ .idle ∨ ∃ b : BankId, (s.bank b).disp ≠ .idle) →
    step s = .next { s with moves := rest }

/-! ### Interrupts: entry, handler steps, return -/

/-- The SPI completion handler is entered exactly when `DONE`, `IE_DONE` and `NVIC_SPI` are 1 and, with
`IRQ_NEST = none`, no dispatcher is active; entry changes the phase and nothing else (rules R174, R176). -/
def Obligations.SpiHandlerEntry : Prop :=
  ∀ (s : State) (rest : List Move), s.moves = .spi :: rest → s.spiH = .idle →
    let enabled := s.done = true ∧ s.ieDone = true ∧ s.nvicSpi = true ∧
      (s.cfg.irqNest = .any ∨ ∀ b : BankId, (s.bank b).disp = .idle)
    (enabled → step s = .next { s with moves := rest, spiH := .a }) ∧
    (¬ enabled → step s = .next { s with moves := rest })

/-- The five handler steps: (a) clears `DONE`, (b) invokes the pending callback if there is one and empties the slot,
(c) posts the signal, (d1) stops the engine, (d2) masks the line and ends the handler (rules R131 to R135, R180). -/
def Obligations.SpiHandlerSteps : Prop :=
  ∀ (s : State) (rest : List Move), s.moves = .spi :: rest →
    (s.spiH = .a → step s = .next { s with moves := rest, done := false, spiH := .b }) ∧
    (s.spiH = .b → ∀ h, s.cb = some h → step s =
      .next { s with moves := rest, trace := s.trace ++ [.cbInvoke h], cb := none, spiH := .c }) ∧
    (s.spiH = .b → s.cb = none → step s = .next { s with moves := rest, spiH := .c }) ∧
    (s.spiH = .c → step s = .next { s with moves := rest, sig := true, spiH := .d1 }) ∧
    (s.spiH = .d1 → step s = .next { s with moves := rest, en := false, spiH := .d2 }) ∧
    (s.spiH = .d2 → step s = .next { s with moves := rest, nvicSpi := false, spiH := .idle })

/-- One run of the completion handler: from an enabled entry, six steps of its agent clear `DONE`, invoke the callback
once if there is one, post the signal, stop the engine and mask the line (rules R130, R176). -/
def Obligations.SpiHandlerRunsToEnd : Prop :=
  ∀ (s : State) (rest : List Move), s.moves = List.replicate 6 .spi ++ rest →
    s.spiH = .idle → s.done = true → s.ieDone = true → s.nvicSpi = true →
    (s.cfg.irqNest = .any ∨ ∀ b : BankId, (s.bank b).disp = .idle) →
    Host.Core.run Sys2Proof.core 6 s =
      .next { s with
        moves := rest, done := false, cb := none, sig := true, en := false, nvicSpi := false
        trace := s.trace ++ (match s.cb with | some h => [.cbInvoke h] | none => []) }

/-- The dispatcher of a bank is entered exactly when `ISR & IMR` is not 0, its line is enabled and, with
`IRQ_NEST = none`, no handler is active; entry changes the phase and nothing else (rules R175, R177). -/
def Obligations.DispatcherEntry : Prop :=
  ∀ (s : State) (b : BankId) (rest : List Move), s.moves = .gpio b :: rest → (s.bank b).disp = .idle →
    let enabled := (s.bank b).isr &&& (s.bank b).imr ≠ 0 ∧ (s.bank b).nvic = true ∧
      (s.cfg.irqNest = .any ∨ (s.spiH = .idle ∧ ∀ b' : BankId, (s.bank b').disp = .idle))
    (enabled → step s =
      .next { s with moves := rest, banks := s.banks.set b { s.bank b with disp := .entered } }) ∧
    (¬ enabled → step s = .next { s with moves := rest })

/-- The dispatcher's read takes `status & mask` once, clears all of `ISR` and starts the scan at pin 0 (rule R151). -/
def Obligations.DispatcherReadsOnce : Prop :=
  ∀ (s : State) (b : BankId) (rest : List Move), s.moves = .gpio b :: rest → (s.bank b).disp = .entered →
    step s = .next { s with
      moves := rest
      banks := s.banks.set b
        { s.bank b with isr := 0, disp := .scan ((s.bank b).isr &&& (s.bank b).imr) 0 } }

/-- A scan step invokes the hook of pin `i` when its snapshot bit is set and it has one, and nothing otherwise; it moves
to the next pin, and after pin 31 the dispatcher ends (rules R152, R180). -/
def Obligations.DispatcherScanStep : Prop :=
  ∀ (s : State) (b : BankId) (snapshot : Word) (i : PinId) (rest : List Move),
    s.moves = .gpio b :: rest → (s.bank b).disp = .scan snapshot i →
    step s = .next { s with
      moves := rest
      banks := s.banks.set b { s.bank b with
        disp := if h : i.val = 31 then .idle else .scan snapshot ⟨i.val + 1, by omega⟩ }
      trace := s.trace ++
        (if snapshot.getLsbD i then
          match (s.bank b).hook[i] with
          | some h => [.hookInvoke b i h]
          | none => []
        else []) }

/-- One dispatch: from an enabled entry, 34 steps of the bank's agent invoke, in ascending pin order and once each,
exactly the hooks of the pins whose bit is set in `status & mask` at the read, clear the status and end (rules R150 to
R153). -/
def Obligations.DispatchInvokesExactlyPending : Prop :=
  ∀ (s : State) (b : BankId) (rest : List Move), s.moves = List.replicate 34 (.gpio b) ++ rest →
    (s.bank b).disp = .idle → (s.bank b).isr &&& (s.bank b).imr ≠ 0 → (s.bank b).nvic = true →
    (s.cfg.irqNest = .any ∨ (s.spiH = .idle ∧ ∀ b' : BankId, (s.bank b').disp = .idle)) →
    Host.Core.run Sys2Proof.core 34 s =
      .next { s with
        moves := rest
        banks := s.banks.set b { s.bank b with isr := 0 }
        trace := s.trace ++ (List.finRange 32).filterMap fun i : PinId =>
          if ((s.bank b).isr &&& (s.bank b).imr).getLsbD i then
            (s.bank b).hook[i].map (Event.hookInvoke b i)
          else none }

/-- PIN_EVENT drives one pin's level and captures an event by the pin's mode, whether or not the pin is unmasked; an
unconfigured pin triggers as the environment chooses; a status bit is never cleared, and nothing else changes (rules
R31, R34, R148). -/
def Obligations.PinEventCaptures : Prop :=
  ∀ (s : State) (b : BankId) (p : PinId) (v choice : Bool) (rest : List Move),
    s.moves = .pin b p v choice :: rest →
    let old := (s.bank b).level.getLsbD p
    let trig : Bool := match (s.bank b).mode[p] with
      | some .rise => !old && v
      | some .fall => old && !v
      | some .high => v
      | some .low => !v
      | none => choice
    ∃ level isr : Word,
      step s = .next { s with moves := rest, banks := s.banks.set b { s.bank b with level := level, isr := isr } } ∧
      (∀ j : PinId, level.getLsbD j = if j = p then v else (s.bank b).level.getLsbD j) ∧
      (∀ j : PinId, isr.getLsbD j = if j = p then ((s.bank b).isr.getLsbD j || trig) else (s.bank b).isr.getLsbD j)

/-! ### Whole commands -/

/-- A GPIO_REGISTER that nothing interleaves: five steps of its requester set the mode and the hook of the pin, unmask
it, respond OK, and leave every other pin and bank (rule R145). -/
def Obligations.RegistrationCompletes : Prop :=
  ∀ (s : State) (r : Nat) (q : Requester) (bank : BankId) (pin : PinId) (mode : TrigMode) (hook : Handle)
    (p : Port) (items : List Item) (rest : List Move),
    s.moves = List.replicate 5 (.task r) ++ rest → s.handlerActive = false → s.reqs[r]? = some q → q.ph = .idle →
    q.script = .command p :: items →
    decode (.command p) = .instr (.gpioRegister (BitVec.ofNat 2 bank) (BitVec.ofNat 5 pin) mode hook) →
    ∃ t, Host.Core.run Sys2Proof.core 5 s = .next t ∧
      (t.bank bank).mode = (s.bank bank).mode.set pin (some mode) ∧
      (t.bank bank).hook = (s.bank bank).hook.set pin (some hook) ∧
      (∀ j : PinId, (t.bank bank).imr.getLsbD j = (decide (j = pin) || (s.bank bank).imr.getLsbD j)) ∧
      (t.bank bank).isr = (s.bank bank).isr ∧
      (∀ b : BankId, b ≠ bank → t.bank b = s.bank b) ∧
      t.trace = s.trace ++ [.rsp r .ok 0 none] ∧ t.phase r = .idle ∧ t.mem = s.mem

/-- The DMA data mover, with its two steps interleaved in any order in which the `k`-th DMA_RX comes after the `k`-th
DMA_TX and nothing else between them: `n` words leave in buffer order from the transmit region, the `n` drawn words stand
in order in the receive region, no other byte of memory changes, and `DONE` is set (rules R53, R109 to R112). -/
def Obligations.DmaMovesWholeBuffers : Prop :=
  ∀ (s : State) (schedule : List Move) (draws : List Word) (rest : List Move),
    Memory.wf s.mem → s.en = true → s.infl = 0 → s.tcr = s.rcr → draws.length = s.tcr.toNat → s.tcr ≠ 0 →
    s.tpr.toNat + 4 * draws.length ≤ 2 ^ 32 → s.rpr.toNat + 4 * draws.length ≤ 2 ^ 32 →
    (s.tpr.toNat + 4 * draws.length ≤ s.rpr.toNat ∨ s.rpr.toNat + 4 * draws.length ≤ s.tpr.toNat) →
    DmaSchedule schedule draws → s.moves = schedule ++ rest →
    ∃ t, Host.Core.run Sys2Proof.core schedule.length s = .next t ∧
      t.trace = s.trace ++
        (List.range draws.length).map (fun k => .spiTx (s.mem.readWord (s.tpr + BitVec.ofNat 32 (4 * k)))) ∧
      (∀ k v, draws[k]? = some v → t.mem.readWord (s.rpr + BitVec.ofNat 32 (4 * k)) = v) ∧
      (∀ a, (a < s.rpr.toNat ∨ s.rpr.toNat + 4 * draws.length ≤ a) →
        Memory.readByte t.mem a = Memory.readByte s.mem a) ∧
      t.tpr = s.tpr + BitVec.ofNat 32 (4 * draws.length) ∧ t.rpr = s.rpr + BitVec.ofNat 32 (4 * draws.length) ∧
      t.tcr = 0 ∧ t.rcr = 0 ∧ t.infl = 0 ∧ t.done = true ∧ t.moves = rest

/-- One whole TRANSCEIVE that no other agent interleaves, from its issue to its response: its requester's six steps to
the start, the two DMA steps in any order in which the `k`-th DMA_RX comes after the `k`-th DMA_TX, one run of the
completion handler, T4 and T5.  The words leave in order, the callback
is invoked once if there is one, the drawn words stand in the receive region, no other byte changes, and the engine ends
idle, ready for the next transfer (rules R101 to R111, R130 to R135). -/
def Obligations.TransferCompletes : Prop :=
  ∀ (s : State) (r : Nat) (q : Requester) (p : Port) (tx rx n : Word) (cb : Option Handle)
    (schedule : List Move) (draws : List Word) (items : List Item) (rest : List Move),
    SystemInv s → s.handlerActive = false → s.ready = true → s.lock = none → s.waitq = [] →
    s.reqs[r]? = some q → q.ph = .idle →
    q.script = .command p :: items → decode (.command p) = .instr (.transceive tx rx n cb) →
    n ≠ 0 → n.toNat ≤ s.cfg.bufCap → tx.toNat % 4 = 0 → rx.toNat % 4 = 0 →
    tx.toNat + 4 * n.toNat ≤ 2 ^ 32 → rx.toNat + 4 * n.toNat ≤ 2 ^ 32 →
    (tx.toNat + 4 * n.toNat ≤ rx.toNat ∨ rx.toNat + 4 * n.toNat ≤ tx.toNat) →
    (∀ k < 4 * n.toNat, isMapped s.cfg (tx.toNat + k) = true ∧ isMapped s.cfg (rx.toNat + k) = true) →
    draws.length = n.toNat → DmaSchedule schedule draws →
    s.moves = List.replicate 6 (.task r) ++ schedule ++ List.replicate 6 .spi ++ List.replicate 2 (.task r) ++ rest →
    ∃ t, Host.Core.run Sys2Proof.core (14 + schedule.length) s = .next t ∧
      t.trace = s.trace ++
        (List.range draws.length).map (fun k => .spiTx (s.mem.readWord (tx + BitVec.ofNat 32 (4 * k)))) ++
        (match cb with | some h => [.cbInvoke h] | none => []) ++ [.rsp r .ok 0 none] ∧
      (∀ k v, draws[k]? = some v → t.mem.readWord (rx + BitVec.ofNat 32 (4 * k)) = v) ∧
      (∀ a, (a < rx.toNat ∨ rx.toNat + 4 * n.toNat ≤ a) → Memory.readByte t.mem a = Memory.readByte s.mem a) ∧
      t.tpr = tx + BitVec.ofNat 32 (4 * n.toNat) ∧ t.rpr = rx + BitVec.ofNat 32 (4 * n.toNat) ∧
      t.tcr = 0 ∧ t.rcr = 0 ∧ t.infl = 0 ∧ t.lock = none ∧ t.waitq = [] ∧ t.cb = none ∧ t.sig = false ∧
      t.en = false ∧ t.done = false ∧ t.nvicSpi = false ∧ t.spiH = .idle ∧ t.ready = true ∧ t.ieDone = s.ieDone ∧
      t.banks = s.banks ∧ t.phase r = .idle ∧ (∀ r', r' ≠ r → t.reqs[r']? = s.reqs[r']?) ∧ t.moves = rest

/-! ### Invariants every step keeps -/

/-- Every step keeps the memory in its canonical form. -/
def Obligations.MemoryStaysCanonical : Prop :=
  ∀ s t : State, Memory.wf s.mem → step s = .next t → Memory.wf t.mem

/-- Every step keeps mutual exclusion: a requester is in phases T2 to T5 exactly when it is the one `LOCK` names, so at
most one transfer is in flight (rules R17, R114 item (1)). -/
def Obligations.MutualExclusionKept : Prop :=
  ∀ s t : State, MutualExclusion s → step s = .next t → MutualExclusion t

/-- Every step keeps the wait queue: it lists, once each, exactly the requesters in T1 (rule R17). -/
def Obligations.WaitQueueKept : Prop :=
  ∀ s t : State, WaitersListed s → step s = .next t → WaitersListed t

/-- Every step keeps the hooks behind the mask: an unmasked pin has a hook, so no dispatch meets a set bit without one
(rule R153). -/
def Obligations.HooksBehindMaskKept : Prop :=
  ∀ s t : State, HooksBehindMask s → step s = .next t → HooksBehindMask t

/-- Every step keeps the whole invariant: legal parameters, canonical memory, mutual exclusion, the wait queue, accepted
requests, the enables of INIT, the engine in step with the lock holder (descriptor progress, `TCR + INFL = RCR`, one
completion per transfer) and the hooks behind the mask (rules R17, R18, R35, R53, R109, R111, R113, R114, R153). -/
def Obligations.SystemInvariantKept : Prop :=
  ∀ s t : State, SystemInv s → step s = .next t → SystemInv t

/-- The launch state satisfies the whole invariant, for every legal launch (rules R200, R230). -/
def Obligations.LaunchSatisfiesInvariant : Prop :=
  ∀ (cfg : Params) (mem : Memory) (levels : Vector Word 3) (scripts : List (List Item)),
    cfg.wellFormed = true → Memory.wf mem → SystemInv (State.launch cfg mem levels scripts)

/-- No hang: in every state that satisfies the invariant, if a requester is blocked then some agent other than the
environment has an enabled step; a transfer can stay blocked only because an enabled agent is never scheduled (rules
R226, R231). -/
def Obligations.BlockedRequesterIsNeverAlone : Prop :=
  ∀ s : State, SystemInv s → ¬ s.hung

/-- DMA accesses stay inside the buffers: whenever a DMA step is enabled, its pointer is a multiple of 4 at a word of the
lock holder's region, and all four bytes are mapped (rules R53, R54, R112). -/
def Obligations.DmaStaysInBuffers : Prop :=
  ∀ s : State, SystemInv s →
    (s.dmaTxEnabled = true → ∃ h k, s.lock = some h ∧ k < (s.latch h).n.toNat ∧
      s.tpr.toNat = (s.latch h).tx.toNat + 4 * k ∧ s.tpr.toNat % 4 = 0 ∧
      ∀ j < 4, isMapped s.cfg (s.tpr.toNat + j) = true) ∧
    (s.dmaRxEnabled = true → ∃ h k, s.lock = some h ∧ k < (s.latch h).n.toNat ∧
      s.rpr.toNat = (s.latch h).rx.toNat + 4 * k ∧ s.rpr.toNat % 4 = 0 ∧
      ∀ j < 4, isMapped s.cfg (s.rpr.toNat + j) = true)

/-- A TRANSCEIVE responds only after all its words moved: at the step that appends the OK response of a requester in T5,
which is that requester's own step, both counts and `INFL` are 0, both pointers stand at the end of their regions, and
the engine, its line, the signal and the callback slot are back at their idle values; the step frees the lock, ends the
command and changes nothing else (rules R59, R109, R114 item (3)). -/
def Obligations.ResponseAfterLastWord : Prop :=
  ∀ (s t : State) (r : Nat), SystemInv s → s.phase r = .t5 → step s = .next t →
    t.trace = s.trace ++ [.rsp r .ok 0 none] →
    s.moves = .task r :: t.moves ∧ s.lock = some r ∧ s.tcr = 0 ∧ s.rcr = 0 ∧ s.infl = 0 ∧
      s.tpr = (s.latch r).tx + BitVec.ofNat 32 (4 * (s.latch r).n.toNat) ∧
      s.rpr = (s.latch r).rx + BitVec.ofNat 32 (4 * (s.latch r).n.toNat) ∧
      s.en = false ∧ s.done = false ∧ s.sig = false ∧ s.nvicSpi = false ∧ s.cb = none ∧ s.spiH = .idle ∧
      t.phase r = .idle ∧ (∀ r', r' ≠ r → t.reqs[r']? = s.reqs[r']?) ∧
      t = { s with moves := t.moves, lock := none, trace := t.trace, reqs := t.reqs }

/-! ### Reset -/

/-- The values reset gives, for every launch (rule R200). -/
def Obligations.ResetValues : Prop :=
  ∀ (cfg : Params) (mem : Memory) (levels : Vector Word 3) (scripts : List (List Item)),
    let s := State.launch cfg mem levels scripts
    s.ready = false ∧ s.ieDone = false ∧ s.en = false ∧ s.done = false ∧ s.sig = false ∧ s.nvicSpi = false ∧
    s.lock = none ∧ s.waitq = [] ∧ s.cb = none ∧ s.infl = 0 ∧ s.spiH = .idle ∧ s.trace = [] ∧
    (∀ r, s.phase r = .idle) ∧ s.mem = mem ∧
    ∀ b : BankId, (s.bank b).nvic = false ∧ (s.bank b).isr = 0 ∧ (s.bank b).imr = 0 ∧ (s.bank b).disp = .idle ∧
      (s.bank b).level = levels[b] ∧ ∀ p : PinId, (s.bank b).mode[p] = none ∧ (s.bank b).hook[p] = none

/-- Right after reset the only enabled steps are pin events and requesters taking their first script item: every
interrupt is disabled and the engine is stopped (rule R201). -/
def Obligations.OnlyCommandsAndPinsAfterReset : Prop :=
  ∀ (cfg : Params) (mem : Memory) (levels : Vector Word 3) (scripts : List (List Item)) (m : Move),
    (State.launch cfg mem levels scripts).enabled m = true →
    isEnvironmentMove m = true ∨ ∃ r items, m = .task r ∧ scripts[r]? = some items ∧ items ≠ []

/-- Reset in flight abandons the transfer: lock, signal, phases, enables, masks and hooks return to their reset values
with no response, and memory and pin levels stay (rules R200, R202). -/
def Obligations.ResetAbandonsTransfer : Prop :=
  ∀ s : State,
    s.rst.mem = s.mem ∧ s.rst.trace = [] ∧ s.rst.lock = none ∧ s.rst.waitq = [] ∧ s.rst.sig = false ∧
    s.rst.en = false ∧ s.rst.done = false ∧ s.rst.infl = 0 ∧ s.rst.nvicSpi = false ∧ s.rst.cb = none ∧
    s.rst.ready = false ∧ s.rst.ieDone = false ∧ s.rst.spiH = .idle ∧ (∀ r, s.rst.phase r = .idle) ∧
    ∀ b : BankId, s.rst.bank b = Bank.atReset (s.bank b).level

/-! ### Rules of the whole machine -/

/-- Who writes the SPI elements: each changes only in the step the access table names (rule R39). -/
def Obligations.SpiElementsKeepTheirWriters : Prop :=
  ∀ (s t : State) (m : Move) (rest : List Move), s.moves = m :: rest → step s = .next t →
    (t.done ≠ s.done → (∃ v, m = .dmaRx v ∧ t.done = true) ∨ (m = .spi ∧ s.spiH = .a ∧ t.done = false)) ∧
    (t.sig ≠ s.sig → (m = .spi ∧ s.spiH = .c ∧ t.sig = true) ∨
      ∃ r, m = .task r ∧ s.phase r = .t4 ∧ t.sig = false) ∧
    (t.en ≠ s.en → (m = .spi ∧ s.spiH = .d1 ∧ t.en = false) ∨ ∃ r, m = .task r ∧ s.phase r = .t3c ∧ t.en = true) ∧
    (t.nvicSpi ≠ s.nvicSpi → (m = .spi ∧ s.spiH = .d2 ∧ t.nvicSpi = false) ∨
      ∃ r, m = .task r ∧ s.phase r = .t3b ∧ t.nvicSpi = true) ∧
    (t.cb ≠ s.cb → (m = .spi ∧ s.spiH = .b ∧ t.cb = none) ∨ ∃ r, m = .task r ∧ s.phase r = .t2) ∧
    (t.lock ≠ s.lock → ∃ r, m = .task r ∧
      ((s.phase r = .t1 ∧ s.lock = none ∧ t.lock = some r) ∨ (s.phase r = .t5 ∧ t.lock = none))) ∧
    (t.waitq ≠ s.waitq →
      (∃ r, m = .task r ∧ s.phase r = .t1) ∨ ∃ tx rx n cb, s.presents m (.transceive tx rx n cb)) ∧
    ((t.tpr ≠ s.tpr ∨ t.tcr ≠ s.tcr) → m = .dmaTx ∨ ∃ r, m = .task r ∧ s.phase r = .t3a) ∧
    ((t.rpr ≠ s.rpr ∨ t.rcr ≠ s.rcr) → (∃ v, m = .dmaRx v) ∨ ∃ r, m = .task r ∧ s.phase r = .t3a) ∧
    (t.infl ≠ s.infl → m = .dmaTx ∨ ∃ v, m = .dmaRx v) ∧
    (t.spiH ≠ s.spiH → m = .spi) ∧
    ((t.ready ≠ s.ready ∨ t.ieDone ≠ s.ieDone) → s.presents m .init)

/-- Who writes the GPIO elements: each changes only in the step the access table names, in that step's bank, and the
hook, the mode, the mask bit and the level of a pin only in a step for that pin; a status bit is set only in a PIN_EVENT
of its pin and cleared only in the dispatcher's read, which clears the whole register; a changed hook, mode or bit holds
what its step writes (rules R32, R39). -/
def Obligations.GpioElementsKeepTheirWriters : Prop :=
  ∀ (s t : State) (m : Move) (rest : List Move) (b : BankId), s.moves = m :: rest → step s = .next t →
    (∀ p : PinId, (t.bank b).hook[p] ≠ (s.bank b).hook[p] →
      ∃ r, m = .task r ∧ s.phase r = .g3 ∧ (s.latch r).bank = b ∧ (s.latch r).pin = p ∧
        (t.bank b).hook[p] = some (s.latch r).hook) ∧
    (∀ p : PinId, (t.bank b).mode[p] ≠ (s.bank b).mode[p] →
      ∃ r, m = .task r ∧ s.phase r = .g2 ∧ (s.latch r).bank = b ∧ (s.latch r).pin = p ∧
        (t.bank b).mode[p] = some (s.latch r).mode) ∧
    (∀ p : PinId, (t.bank b).imr.getLsbD p ≠ (s.bank b).imr.getLsbD p →
      (∃ bank pin, bank.toNat = b.val ∧ pin.toNat = p.val ∧ s.presents m (.gpioUnregister bank pin) ∧
        (t.bank b).imr.getLsbD p = false) ∨
      ∃ r, m = .task r ∧ (s.latch r).bank = b ∧ (s.latch r).pin = p ∧
        ((s.phase r = .g1 ∧ (t.bank b).imr.getLsbD p = false) ∨
          (s.phase r = .g4 ∧ (t.bank b).imr.getLsbD p = true))) ∧
    (∀ p : PinId, (t.bank b).isr.getLsbD p ≠ (s.bank b).isr.getLsbD p →
      (m = .gpio b ∧ (s.bank b).disp = .entered ∧ (t.bank b).isr = 0) ∨
        ∃ v choice, m = .pin b p v choice ∧ (t.bank b).isr.getLsbD p = true) ∧
    (∀ p : PinId, (t.bank b).level.getLsbD p ≠ (s.bank b).level.getLsbD p →
      ∃ v choice, m = .pin b p v choice ∧ (t.bank b).level.getLsbD p = v) ∧
    ((t.bank b).disp ≠ (s.bank b).disp → m = .gpio b) ∧
    ((t.bank b).nvic ≠ (s.bank b).nvic → s.presents m .init)

/-- Who writes memory: a byte changes only in a DMA_RX step, among the four bytes at `RPR`, or in a requester's own store,
among the bytes it names (rules R39, R51). -/
def Obligations.MemoryKeepsItsWriters : Prop :=
  ∀ (s t : State) (m : Move) (rest : List Move) (a : Nat), Memory.wf s.mem → s.moves = m :: rest → step s = .next t →
    Memory.readByte t.mem a ≠ Memory.readByte s.mem a →
    (∃ v, m = .dmaRx v ∧ s.en = true ∧ ∃ k < 4, a = (s.rpr + BitVec.ofNat 32 k).toNat) ∨
    (∃ r q width addr v items, m = .task r ∧ s.reqs[r]? = some q ∧ q.ph = .idle ∧
      q.script = .store width addr v :: items ∧ ∃ k < width.bytes, a = (addr + BitVec.ofNat 32 k).toNat)

/-- The holder keeps the lock until its own T5, which is also its response (rules R58, R103, R109, R114 item (4)). -/
def Obligations.LockHeldUntilResponse : Prop :=
  ∀ (s t : State) (m : Move) (rest : List Move) (h : Nat), MutualExclusion s → s.moves = m :: rest →
    step s = .next t → s.lock = some h →
    t.lock = some h ∨
      (m = .task h ∧ s.phase h = .t5 ∧ t.lock = none ∧ t.trace = s.trace ++ [.rsp h .ok 0 none])

/-- Banks are independent of each other and of the SPI path: a step of a bank's dispatcher or pins changes that bank and
the trace, and nothing else (`43_gpio_dispatch.md`; vector V-G38). -/
def Obligations.BanksAreIndependent : Prop :=
  ∀ (s t : State) (m : Move) (rest : List Move) (b : BankId), s.moves = m :: rest →
    (m = .gpio b ∨ ∃ p v choice, m = .pin b p v choice) → step s = .next t →
    t = { s with moves := rest, banks := t.banks, trace := t.trace } ∧ ∀ b' : BankId, b' ≠ b → t.bank b' = s.bank b'

/-- Steps of active handlers of different lines commute, but for the order of the events they emit (rule R181). -/
def Obligations.ActiveHandlersCommute : Prop :=
  (∀ (s : State) (b : BankId) (rest : List Move), s.spiH ≠ .idle → (s.bank b).disp ≠ .idle →
    ∃ t u es eg,
      Host.Core.run Sys2Proof.core 2 { s with moves := .spi :: .gpio b :: rest } = .next t ∧
      Host.Core.run Sys2Proof.core 2 { s with moves := .gpio b :: .spi :: rest } = .next u ∧
      t = { u with trace := t.trace } ∧ t.trace = s.trace ++ es ++ eg ∧ u.trace = s.trace ++ eg ++ es) ∧
  (∀ (s : State) (b c : BankId) (rest : List Move), b ≠ c → (s.bank b).disp ≠ .idle → (s.bank c).disp ≠ .idle →
    ∃ t u eb ec,
      Host.Core.run Sys2Proof.core 2 { s with moves := .gpio b :: .gpio c :: rest } = .next t ∧
      Host.Core.run Sys2Proof.core 2 { s with moves := .gpio c :: .gpio b :: rest } = .next u ∧
      t = { u with trace := t.trace } ∧ t.trace = s.trace ++ eb ++ ec ∧ u.trace = s.trace ++ ec ++ eb)

/-- No step changes a parameter of the run or the number of requesters (rule R230). -/
def Obligations.ParametersNeverChange : Prop :=
  ∀ s t : State, step s = .next t → t.cfg = s.cfg ∧ t.reqs.length = s.reqs.length

/-- The trace only grows, by at most one event a step (rule R38). -/
def Obligations.TraceOnlyGrows : Prop :=
  ∀ s t : State, step s = .next t → ∃ es : List Event, t.trace = s.trace ++ es ∧ es.length ≤ 1

/-- Only a requester's script item can stop the machine: a fault is an unmapped own access, a refusal a command; no
micro-step, DMA step, handler step or pin event stops (rules R54, R79, R102, R136). -/
def Obligations.OnlyScriptItemsStop : Prop :=
  ∀ s : State, (∀ t, step s ≠ .next t) →
    ∃ r q rest item items, s.moves = .task r :: rest ∧ s.reqs[r]? = some q ∧ q.ph = .idle ∧ s.handlerActive = false ∧
      q.script = item :: items ∧
      ((∃ p why, item = .command p ∧ step s = .refused why) ∨
        (∃ width a, (item = .load width a ∨ ∃ v, item = .store width a v) ∧
          step s = .fault (.unmappedAccess r a)))
end

