-- ==== Sys2Proof/Laws/Decode.lean ====
section
/-! SUPPORT. The small lemmas of the control-word format: the bits of a packed word, its fields, and what a successful
decode says. -/

namespace Sys2Proof

/-- The bits of a packed control word (rule R70). -/
theorem getLsbD_packWord (l : Bool) (rt : Byte) (td : Half) (i : Nat) :
    (packWord l rt td).getLsbD i =
      if i < 16 then td.getLsbD i else if i < 24 then rt.getLsbD (i - 16) else (decide (i = 24) && l) := by
  simp only [packWord, BitVec.getLsbD_or, BitVec.getLsbD_shiftLeft, BitVec.getLsbD_setWidth, BitVec.getLsbD_ofBool]
  by_cases h1 : i < 16
  · simp [h1, show i < 24 by omega, show i < 32 by omega]
  · by_cases h2 : i < 24
    · simp [h1, h2, show i < 32 by omega, show i - 16 < 32 by omega, BitVec.getLsbD_of_ge td i (by omega)]
    · simp only [h1, h2, BitVec.getLsbD_of_ge td i (by omega), BitVec.getLsbD_of_ge rt (i - 16) (by omega), if_false,
        Bool.and_false, Bool.or_false]
      by_cases h3 : i = 24
      · simp [h3]
      · simp [h3, show i - 24 ≠ 0 by omega]

/-- Field `RSV` of a packed word is 0 (rule R71). -/
theorem rsvField_packWord (l : Bool) (rt : Byte) (td : Half) : rsvField (packWord l rt td) = 0 := by
  apply BitVec.eq_of_getLsbD_eq
  intro j hj
  rw [rsvField, BitVec.getLsbD_extractLsb', getLsbD_packWord]
  simp [show ¬ 25 + j < 16 by omega, show ¬ 25 + j < 24 by omega, show 25 + j ≠ 24 by omega]

/-- Field `L` of a packed word. -/
theorem lastField_packWord (l : Bool) (rt : Byte) (td : Half) : lastField (packWord l rt td) = l := by
  rw [lastField, getLsbD_packWord]
  simp

/-- Field `ROUTE` of a packed word. -/
theorem routeField_packWord (l : Bool) (rt : Byte) (td : Half) : routeField (packWord l rt td) = rt := by
  apply BitVec.eq_of_getLsbD_eq
  intro j hj
  rw [routeField, BitVec.getLsbD_extractLsb', getLsbD_packWord]
  simp [hj, show ¬ 16 + j < 16 by omega, show 16 + j < 24 by omega]

/-- Field `TD` of a packed word. -/
theorem payloadField_packWord (l : Bool) (rt : Byte) (td : Half) : payloadField (packWord l rt td) = td := by
  apply BitVec.eq_of_getLsbD_eq
  intro j hj
  rw [payloadField, BitVec.getLsbD_extractLsb', getLsbD_packWord]
  simp [hj]

/-- A word whose `RSV` is 0 is packed from its own fields. -/
theorem packWord_fields {w : Word} (h : rsvField w = 0) :
    packWord (lastField w) (routeField w) (payloadField w) = w := by
  apply BitVec.eq_of_getLsbD_eq
  intro j hj
  rw [getLsbD_packWord]
  split
  · simp [payloadField, *]
  · split
    · simp [routeField, show j - 16 < 8 by omega, show 16 + (j - 16) = j by omega]
    · by_cases h24 : j = 24
      · simp [h24, lastField]
      · have hbit := congrArg (·.getLsbD (j - 25)) h
        simp only [rsvField, BitVec.getLsbD_extractLsb', show j - 25 < 7 by omega,
          show 25 + (j - 25) = j by omega] at hbit
        simp at hbit
        simp [h24, hbit]

/-- The route table, read as a relation (rule R72). -/
theorem route_some {cs bits : Byte} (h : route cs = some bits) :
    cs = 0 ∧ bits = 0 ∨ cs = 1 ∧ bits = 1 ∨ cs = 2 ∧ bits = 3 ∨ cs = 3 ∧ bits = 7 := by
  have hc : cs = BitVec.ofNat 8 cs.toNat := by simp
  unfold route at h
  split at h <;> simp at h <;> rename_i e <;> rw [e] at hc <;> simp [hc, ← h]

/-- What a successful DECODE_CW says: the word is packed from its flag, a select's route and its payload (rule R93). -/
theorem decodeControlWord_some {w : Word} {l : Bool} {cs : Byte} {td : Half}
    (h : decodeControlWord w = some (l, cs, td)) :
    ∃ bits, route cs = some bits ∧ w = packWord l bits td := by
  unfold decodeControlWord at h
  split at h
  · rename_i hr
    have hw := packWord_fields hr
    split at h
    case h_5 => cases h
    all_goals
      rename_i hro
      cases h
      have hro' : routeField w = BitVec.ofNat 8 (routeField w).toNat := by simp
      rw [hro] at hro'
      rw [hro'] at hw
      exact ⟨_, rfl, hw.symm⟩
  · cases h

end Sys2Proof
end

