-- ==== Sys2Proof/Laws/State.lean ====
section
/-! SUPPORT. One lemma per field per update of `State`: what each named update leaves and what it sets. -/

namespace Sys2Proof.Machine

/-! ### `emit` -/

@[simp] theorem State.emit_ready (s : State) (e : Event) : (s.emit e).ready = s.ready := rfl
@[simp] theorem State.emit_ieDone (s : State) (e : Event) : (s.emit e).ieDone = s.ieDone := rfl
@[simp] theorem State.emit_en (s : State) (e : Event) : (s.emit e).en = s.en := rfl
@[simp] theorem State.emit_done (s : State) (e : Event) : (s.emit e).done = s.done := rfl
@[simp] theorem State.emit_sig (s : State) (e : Event) : (s.emit e).sig = s.sig := rfl
@[simp] theorem State.emit_nvicSpi (s : State) (e : Event) : (s.emit e).nvicSpi = s.nvicSpi := rfl
@[simp] theorem State.emit_tpr (s : State) (e : Event) : (s.emit e).tpr = s.tpr := rfl
@[simp] theorem State.emit_tcr (s : State) (e : Event) : (s.emit e).tcr = s.tcr := rfl
@[simp] theorem State.emit_rpr (s : State) (e : Event) : (s.emit e).rpr = s.rpr := rfl
@[simp] theorem State.emit_rcr (s : State) (e : Event) : (s.emit e).rcr = s.rcr := rfl
@[simp] theorem State.emit_infl (s : State) (e : Event) : (s.emit e).infl = s.infl := rfl
@[simp] theorem State.emit_cb (s : State) (e : Event) : (s.emit e).cb = s.cb := rfl
@[simp] theorem State.emit_spiH (s : State) (e : Event) : (s.emit e).spiH = s.spiH := rfl
@[simp] theorem State.emit_banks (s : State) (e : Event) : (s.emit e).banks = s.banks := rfl
@[simp] theorem State.emit_reqs (s : State) (e : Event) : (s.emit e).reqs = s.reqs := rfl
@[simp] theorem State.emit_lock (s : State) (e : Event) : (s.emit e).lock = s.lock := rfl
@[simp] theorem State.emit_waitq (s : State) (e : Event) : (s.emit e).waitq = s.waitq := rfl
@[simp] theorem State.emit_mem (s : State) (e : Event) : (s.emit e).mem = s.mem := rfl
@[simp] theorem State.emit_trace (s : State) (e : Event) : (s.emit e).trace = s.trace ++ [e] := rfl
@[simp] theorem State.emit_cmdReq (s : State) (e : Event) : (s.emit e).cmdReq = s.cmdReq := rfl
@[simp] theorem State.emit_moves (s : State) (e : Event) : (s.emit e).moves = s.moves := rfl
@[simp] theorem State.emit_cfg (s : State) (e : Event) : (s.emit e).cfg = s.cfg := rfl

/-! ### `respond` -/

@[simp] theorem State.respond_ready (s : State) (r : Nat) (w : Option Word) : (s.respond r w).ready = s.ready := rfl
@[simp] theorem State.respond_ieDone (s : State) (r : Nat) (w : Option Word) : (s.respond r w).ieDone = s.ieDone := rfl
@[simp] theorem State.respond_en (s : State) (r : Nat) (w : Option Word) : (s.respond r w).en = s.en := rfl
@[simp] theorem State.respond_done (s : State) (r : Nat) (w : Option Word) : (s.respond r w).done = s.done := rfl
@[simp] theorem State.respond_sig (s : State) (r : Nat) (w : Option Word) : (s.respond r w).sig = s.sig := rfl
@[simp] theorem State.respond_nvicSpi (s : State) (r : Nat) (w : Option Word) : (s.respond r w).nvicSpi = s.nvicSpi := rfl
@[simp] theorem State.respond_tpr (s : State) (r : Nat) (w : Option Word) : (s.respond r w).tpr = s.tpr := rfl
@[simp] theorem State.respond_tcr (s : State) (r : Nat) (w : Option Word) : (s.respond r w).tcr = s.tcr := rfl
@[simp] theorem State.respond_rpr (s : State) (r : Nat) (w : Option Word) : (s.respond r w).rpr = s.rpr := rfl
@[simp] theorem State.respond_rcr (s : State) (r : Nat) (w : Option Word) : (s.respond r w).rcr = s.rcr := rfl
@[simp] theorem State.respond_infl (s : State) (r : Nat) (w : Option Word) : (s.respond r w).infl = s.infl := rfl
@[simp] theorem State.respond_cb (s : State) (r : Nat) (w : Option Word) : (s.respond r w).cb = s.cb := rfl
@[simp] theorem State.respond_spiH (s : State) (r : Nat) (w : Option Word) : (s.respond r w).spiH = s.spiH := rfl
@[simp] theorem State.respond_banks (s : State) (r : Nat) (w : Option Word) : (s.respond r w).banks = s.banks := rfl
@[simp] theorem State.respond_reqs (s : State) (r : Nat) (w : Option Word) : (s.respond r w).reqs = s.reqs := rfl
@[simp] theorem State.respond_lock (s : State) (r : Nat) (w : Option Word) : (s.respond r w).lock = s.lock := rfl
@[simp] theorem State.respond_waitq (s : State) (r : Nat) (w : Option Word) : (s.respond r w).waitq = s.waitq := rfl
@[simp] theorem State.respond_mem (s : State) (r : Nat) (w : Option Word) : (s.respond r w).mem = s.mem := rfl
@[simp] theorem State.respond_trace (s : State) (r : Nat) (w : Option Word) : (s.respond r w).trace = s.trace ++ [.rsp r .ok 0 w] := rfl
@[simp] theorem State.respond_cmdReq (s : State) (r : Nat) (w : Option Word) : (s.respond r w).cmdReq = s.cmdReq := rfl
@[simp] theorem State.respond_moves (s : State) (r : Nat) (w : Option Word) : (s.respond r w).moves = s.moves := rfl
@[simp] theorem State.respond_cfg (s : State) (r : Nat) (w : Option Word) : (s.respond r w).cfg = s.cfg := rfl

/-! ### `raise` -/

@[simp] theorem State.raise_ready (s : State) (r : Nat) (code : RspCode) (info : Word) : (s.raise r code info).ready = s.ready := rfl
@[simp] theorem State.raise_ieDone (s : State) (r : Nat) (code : RspCode) (info : Word) : (s.raise r code info).ieDone = s.ieDone := rfl
@[simp] theorem State.raise_en (s : State) (r : Nat) (code : RspCode) (info : Word) : (s.raise r code info).en = s.en := rfl
@[simp] theorem State.raise_done (s : State) (r : Nat) (code : RspCode) (info : Word) : (s.raise r code info).done = s.done := rfl
@[simp] theorem State.raise_sig (s : State) (r : Nat) (code : RspCode) (info : Word) : (s.raise r code info).sig = s.sig := rfl
@[simp] theorem State.raise_nvicSpi (s : State) (r : Nat) (code : RspCode) (info : Word) : (s.raise r code info).nvicSpi = s.nvicSpi := rfl
@[simp] theorem State.raise_tpr (s : State) (r : Nat) (code : RspCode) (info : Word) : (s.raise r code info).tpr = s.tpr := rfl
@[simp] theorem State.raise_tcr (s : State) (r : Nat) (code : RspCode) (info : Word) : (s.raise r code info).tcr = s.tcr := rfl
@[simp] theorem State.raise_rpr (s : State) (r : Nat) (code : RspCode) (info : Word) : (s.raise r code info).rpr = s.rpr := rfl
@[simp] theorem State.raise_rcr (s : State) (r : Nat) (code : RspCode) (info : Word) : (s.raise r code info).rcr = s.rcr := rfl
@[simp] theorem State.raise_infl (s : State) (r : Nat) (code : RspCode) (info : Word) : (s.raise r code info).infl = s.infl := rfl
@[simp] theorem State.raise_cb (s : State) (r : Nat) (code : RspCode) (info : Word) : (s.raise r code info).cb = s.cb := rfl
@[simp] theorem State.raise_spiH (s : State) (r : Nat) (code : RspCode) (info : Word) : (s.raise r code info).spiH = s.spiH := rfl
@[simp] theorem State.raise_banks (s : State) (r : Nat) (code : RspCode) (info : Word) : (s.raise r code info).banks = s.banks := rfl
@[simp] theorem State.raise_reqs (s : State) (r : Nat) (code : RspCode) (info : Word) : (s.raise r code info).reqs = s.reqs := rfl
@[simp] theorem State.raise_lock (s : State) (r : Nat) (code : RspCode) (info : Word) : (s.raise r code info).lock = s.lock := rfl
@[simp] theorem State.raise_waitq (s : State) (r : Nat) (code : RspCode) (info : Word) : (s.raise r code info).waitq = s.waitq := rfl
@[simp] theorem State.raise_mem (s : State) (r : Nat) (code : RspCode) (info : Word) : (s.raise r code info).mem = s.mem := rfl
@[simp] theorem State.raise_trace (s : State) (r : Nat) (code : RspCode) (info : Word) : (s.raise r code info).trace = s.trace ++ [.rsp r code info none] := rfl
@[simp] theorem State.raise_cmdReq (s : State) (r : Nat) (code : RspCode) (info : Word) : (s.raise r code info).cmdReq = s.cmdReq := rfl
@[simp] theorem State.raise_moves (s : State) (r : Nat) (code : RspCode) (info : Word) : (s.raise r code info).moves = s.moves := rfl
@[simp] theorem State.raise_cfg (s : State) (r : Nat) (code : RspCode) (info : Word) : (s.raise r code info).cfg = s.cfg := rfl

/-! ### `setBank` -/

@[simp] theorem State.setBank_ready (s : State) (b : BankId) (k : Bank) : (s.setBank b k).ready = s.ready := rfl
@[simp] theorem State.setBank_ieDone (s : State) (b : BankId) (k : Bank) : (s.setBank b k).ieDone = s.ieDone := rfl
@[simp] theorem State.setBank_en (s : State) (b : BankId) (k : Bank) : (s.setBank b k).en = s.en := rfl
@[simp] theorem State.setBank_done (s : State) (b : BankId) (k : Bank) : (s.setBank b k).done = s.done := rfl
@[simp] theorem State.setBank_sig (s : State) (b : BankId) (k : Bank) : (s.setBank b k).sig = s.sig := rfl
@[simp] theorem State.setBank_nvicSpi (s : State) (b : BankId) (k : Bank) : (s.setBank b k).nvicSpi = s.nvicSpi := rfl
@[simp] theorem State.setBank_tpr (s : State) (b : BankId) (k : Bank) : (s.setBank b k).tpr = s.tpr := rfl
@[simp] theorem State.setBank_tcr (s : State) (b : BankId) (k : Bank) : (s.setBank b k).tcr = s.tcr := rfl
@[simp] theorem State.setBank_rpr (s : State) (b : BankId) (k : Bank) : (s.setBank b k).rpr = s.rpr := rfl
@[simp] theorem State.setBank_rcr (s : State) (b : BankId) (k : Bank) : (s.setBank b k).rcr = s.rcr := rfl
@[simp] theorem State.setBank_infl (s : State) (b : BankId) (k : Bank) : (s.setBank b k).infl = s.infl := rfl
@[simp] theorem State.setBank_cb (s : State) (b : BankId) (k : Bank) : (s.setBank b k).cb = s.cb := rfl
@[simp] theorem State.setBank_spiH (s : State) (b : BankId) (k : Bank) : (s.setBank b k).spiH = s.spiH := rfl
@[simp] theorem State.setBank_banks (s : State) (b : BankId) (k : Bank) : (s.setBank b k).banks = s.banks.set b k := rfl
@[simp] theorem State.setBank_reqs (s : State) (b : BankId) (k : Bank) : (s.setBank b k).reqs = s.reqs := rfl
@[simp] theorem State.setBank_lock (s : State) (b : BankId) (k : Bank) : (s.setBank b k).lock = s.lock := rfl
@[simp] theorem State.setBank_waitq (s : State) (b : BankId) (k : Bank) : (s.setBank b k).waitq = s.waitq := rfl
@[simp] theorem State.setBank_mem (s : State) (b : BankId) (k : Bank) : (s.setBank b k).mem = s.mem := rfl
@[simp] theorem State.setBank_trace (s : State) (b : BankId) (k : Bank) : (s.setBank b k).trace = s.trace := rfl
@[simp] theorem State.setBank_cmdReq (s : State) (b : BankId) (k : Bank) : (s.setBank b k).cmdReq = s.cmdReq := rfl
@[simp] theorem State.setBank_moves (s : State) (b : BankId) (k : Bank) : (s.setBank b k).moves = s.moves := rfl
@[simp] theorem State.setBank_cfg (s : State) (b : BankId) (k : Bank) : (s.setBank b k).cfg = s.cfg := rfl

/-! ### `modReq` -/

@[simp] theorem State.modReq_ready (s : State) (r : Nat) (f : Requester → Requester) : (s.modReq r f).ready = s.ready := rfl
@[simp] theorem State.modReq_ieDone (s : State) (r : Nat) (f : Requester → Requester) : (s.modReq r f).ieDone = s.ieDone := rfl
@[simp] theorem State.modReq_en (s : State) (r : Nat) (f : Requester → Requester) : (s.modReq r f).en = s.en := rfl
@[simp] theorem State.modReq_done (s : State) (r : Nat) (f : Requester → Requester) : (s.modReq r f).done = s.done := rfl
@[simp] theorem State.modReq_sig (s : State) (r : Nat) (f : Requester → Requester) : (s.modReq r f).sig = s.sig := rfl
@[simp] theorem State.modReq_nvicSpi (s : State) (r : Nat) (f : Requester → Requester) : (s.modReq r f).nvicSpi = s.nvicSpi := rfl
@[simp] theorem State.modReq_tpr (s : State) (r : Nat) (f : Requester → Requester) : (s.modReq r f).tpr = s.tpr := rfl
@[simp] theorem State.modReq_tcr (s : State) (r : Nat) (f : Requester → Requester) : (s.modReq r f).tcr = s.tcr := rfl
@[simp] theorem State.modReq_rpr (s : State) (r : Nat) (f : Requester → Requester) : (s.modReq r f).rpr = s.rpr := rfl
@[simp] theorem State.modReq_rcr (s : State) (r : Nat) (f : Requester → Requester) : (s.modReq r f).rcr = s.rcr := rfl
@[simp] theorem State.modReq_infl (s : State) (r : Nat) (f : Requester → Requester) : (s.modReq r f).infl = s.infl := rfl
@[simp] theorem State.modReq_cb (s : State) (r : Nat) (f : Requester → Requester) : (s.modReq r f).cb = s.cb := rfl
@[simp] theorem State.modReq_spiH (s : State) (r : Nat) (f : Requester → Requester) : (s.modReq r f).spiH = s.spiH := rfl
@[simp] theorem State.modReq_banks (s : State) (r : Nat) (f : Requester → Requester) : (s.modReq r f).banks = s.banks := rfl
@[simp] theorem State.modReq_reqs (s : State) (r : Nat) (f : Requester → Requester) : (s.modReq r f).reqs = s.reqs.modify r f := rfl
@[simp] theorem State.modReq_lock (s : State) (r : Nat) (f : Requester → Requester) : (s.modReq r f).lock = s.lock := rfl
@[simp] theorem State.modReq_waitq (s : State) (r : Nat) (f : Requester → Requester) : (s.modReq r f).waitq = s.waitq := rfl
@[simp] theorem State.modReq_mem (s : State) (r : Nat) (f : Requester → Requester) : (s.modReq r f).mem = s.mem := rfl
@[simp] theorem State.modReq_trace (s : State) (r : Nat) (f : Requester → Requester) : (s.modReq r f).trace = s.trace := rfl
@[simp] theorem State.modReq_cmdReq (s : State) (r : Nat) (f : Requester → Requester) : (s.modReq r f).cmdReq = s.cmdReq := rfl
@[simp] theorem State.modReq_moves (s : State) (r : Nat) (f : Requester → Requester) : (s.modReq r f).moves = s.moves := rfl
@[simp] theorem State.modReq_cfg (s : State) (r : Nat) (f : Requester → Requester) : (s.modReq r f).cfg = s.cfg := rfl

/-! ### `setPhase` -/

@[simp] theorem State.setPhase_ready (s : State) (r : Nat) (p : Phase) : (s.setPhase r p).ready = s.ready := rfl
@[simp] theorem State.setPhase_ieDone (s : State) (r : Nat) (p : Phase) : (s.setPhase r p).ieDone = s.ieDone := rfl
@[simp] theorem State.setPhase_en (s : State) (r : Nat) (p : Phase) : (s.setPhase r p).en = s.en := rfl
@[simp] theorem State.setPhase_done (s : State) (r : Nat) (p : Phase) : (s.setPhase r p).done = s.done := rfl
@[simp] theorem State.setPhase_sig (s : State) (r : Nat) (p : Phase) : (s.setPhase r p).sig = s.sig := rfl
@[simp] theorem State.setPhase_nvicSpi (s : State) (r : Nat) (p : Phase) : (s.setPhase r p).nvicSpi = s.nvicSpi := rfl
@[simp] theorem State.setPhase_tpr (s : State) (r : Nat) (p : Phase) : (s.setPhase r p).tpr = s.tpr := rfl
@[simp] theorem State.setPhase_tcr (s : State) (r : Nat) (p : Phase) : (s.setPhase r p).tcr = s.tcr := rfl
@[simp] theorem State.setPhase_rpr (s : State) (r : Nat) (p : Phase) : (s.setPhase r p).rpr = s.rpr := rfl
@[simp] theorem State.setPhase_rcr (s : State) (r : Nat) (p : Phase) : (s.setPhase r p).rcr = s.rcr := rfl
@[simp] theorem State.setPhase_infl (s : State) (r : Nat) (p : Phase) : (s.setPhase r p).infl = s.infl := rfl
@[simp] theorem State.setPhase_cb (s : State) (r : Nat) (p : Phase) : (s.setPhase r p).cb = s.cb := rfl
@[simp] theorem State.setPhase_spiH (s : State) (r : Nat) (p : Phase) : (s.setPhase r p).spiH = s.spiH := rfl
@[simp] theorem State.setPhase_banks (s : State) (r : Nat) (p : Phase) : (s.setPhase r p).banks = s.banks := rfl
@[simp] theorem State.setPhase_reqs (s : State) (r : Nat) (p : Phase) : (s.setPhase r p).reqs = s.reqs.modify r fun q => { q with ph := p } := rfl
@[simp] theorem State.setPhase_lock (s : State) (r : Nat) (p : Phase) : (s.setPhase r p).lock = s.lock := rfl
@[simp] theorem State.setPhase_waitq (s : State) (r : Nat) (p : Phase) : (s.setPhase r p).waitq = s.waitq := rfl
@[simp] theorem State.setPhase_mem (s : State) (r : Nat) (p : Phase) : (s.setPhase r p).mem = s.mem := rfl
@[simp] theorem State.setPhase_trace (s : State) (r : Nat) (p : Phase) : (s.setPhase r p).trace = s.trace := rfl
@[simp] theorem State.setPhase_cmdReq (s : State) (r : Nat) (p : Phase) : (s.setPhase r p).cmdReq = s.cmdReq := rfl
@[simp] theorem State.setPhase_moves (s : State) (r : Nat) (p : Phase) : (s.setPhase r p).moves = s.moves := rfl
@[simp] theorem State.setPhase_cfg (s : State) (r : Nat) (p : Phase) : (s.setPhase r p).cfg = s.cfg := rfl

/-! ### `enterSpiHandler` -/

@[simp] theorem enterSpiHandler_ready (s : State) : (enterSpiHandler s).ready = s.ready := rfl
@[simp] theorem enterSpiHandler_ieDone (s : State) : (enterSpiHandler s).ieDone = s.ieDone := rfl
@[simp] theorem enterSpiHandler_en (s : State) : (enterSpiHandler s).en = s.en := rfl
@[simp] theorem enterSpiHandler_done (s : State) : (enterSpiHandler s).done = s.done := rfl
@[simp] theorem enterSpiHandler_sig (s : State) : (enterSpiHandler s).sig = s.sig := rfl
@[simp] theorem enterSpiHandler_nvicSpi (s : State) : (enterSpiHandler s).nvicSpi = s.nvicSpi := rfl
@[simp] theorem enterSpiHandler_tpr (s : State) : (enterSpiHandler s).tpr = s.tpr := rfl
@[simp] theorem enterSpiHandler_tcr (s : State) : (enterSpiHandler s).tcr = s.tcr := rfl
@[simp] theorem enterSpiHandler_rpr (s : State) : (enterSpiHandler s).rpr = s.rpr := rfl
@[simp] theorem enterSpiHandler_rcr (s : State) : (enterSpiHandler s).rcr = s.rcr := rfl
@[simp] theorem enterSpiHandler_infl (s : State) : (enterSpiHandler s).infl = s.infl := rfl
@[simp] theorem enterSpiHandler_cb (s : State) : (enterSpiHandler s).cb = s.cb := rfl
@[simp] theorem enterSpiHandler_spiH (s : State) : (enterSpiHandler s).spiH = .a := rfl
@[simp] theorem enterSpiHandler_banks (s : State) : (enterSpiHandler s).banks = s.banks := rfl
@[simp] theorem enterSpiHandler_reqs (s : State) : (enterSpiHandler s).reqs = s.reqs := rfl
@[simp] theorem enterSpiHandler_lock (s : State) : (enterSpiHandler s).lock = s.lock := rfl
@[simp] theorem enterSpiHandler_waitq (s : State) : (enterSpiHandler s).waitq = s.waitq := rfl
@[simp] theorem enterSpiHandler_mem (s : State) : (enterSpiHandler s).mem = s.mem := rfl
@[simp] theorem enterSpiHandler_trace (s : State) : (enterSpiHandler s).trace = s.trace := rfl
@[simp] theorem enterSpiHandler_cmdReq (s : State) : (enterSpiHandler s).cmdReq = s.cmdReq := rfl
@[simp] theorem enterSpiHandler_moves (s : State) : (enterSpiHandler s).moves = s.moves := rfl
@[simp] theorem enterSpiHandler_cfg (s : State) : (enterSpiHandler s).cfg = s.cfg := rfl

/-! ### `leaveSpiHandler` -/

@[simp] theorem leaveSpiHandler_ready (s : State) : (leaveSpiHandler s).ready = s.ready := rfl
@[simp] theorem leaveSpiHandler_ieDone (s : State) : (leaveSpiHandler s).ieDone = s.ieDone := rfl
@[simp] theorem leaveSpiHandler_en (s : State) : (leaveSpiHandler s).en = s.en := rfl
@[simp] theorem leaveSpiHandler_done (s : State) : (leaveSpiHandler s).done = s.done := rfl
@[simp] theorem leaveSpiHandler_sig (s : State) : (leaveSpiHandler s).sig = s.sig := rfl
@[simp] theorem leaveSpiHandler_nvicSpi (s : State) : (leaveSpiHandler s).nvicSpi = s.nvicSpi := rfl
@[simp] theorem leaveSpiHandler_tpr (s : State) : (leaveSpiHandler s).tpr = s.tpr := rfl
@[simp] theorem leaveSpiHandler_tcr (s : State) : (leaveSpiHandler s).tcr = s.tcr := rfl
@[simp] theorem leaveSpiHandler_rpr (s : State) : (leaveSpiHandler s).rpr = s.rpr := rfl
@[simp] theorem leaveSpiHandler_rcr (s : State) : (leaveSpiHandler s).rcr = s.rcr := rfl
@[simp] theorem leaveSpiHandler_infl (s : State) : (leaveSpiHandler s).infl = s.infl := rfl
@[simp] theorem leaveSpiHandler_cb (s : State) : (leaveSpiHandler s).cb = s.cb := rfl
@[simp] theorem leaveSpiHandler_spiH (s : State) : (leaveSpiHandler s).spiH = .idle := rfl
@[simp] theorem leaveSpiHandler_banks (s : State) : (leaveSpiHandler s).banks = s.banks := rfl
@[simp] theorem leaveSpiHandler_reqs (s : State) : (leaveSpiHandler s).reqs = s.reqs := rfl
@[simp] theorem leaveSpiHandler_lock (s : State) : (leaveSpiHandler s).lock = s.lock := rfl
@[simp] theorem leaveSpiHandler_waitq (s : State) : (leaveSpiHandler s).waitq = s.waitq := rfl
@[simp] theorem leaveSpiHandler_mem (s : State) : (leaveSpiHandler s).mem = s.mem := rfl
@[simp] theorem leaveSpiHandler_trace (s : State) : (leaveSpiHandler s).trace = s.trace := rfl
@[simp] theorem leaveSpiHandler_cmdReq (s : State) : (leaveSpiHandler s).cmdReq = s.cmdReq := rfl
@[simp] theorem leaveSpiHandler_moves (s : State) : (leaveSpiHandler s).moves = s.moves := rfl
@[simp] theorem leaveSpiHandler_cfg (s : State) : (leaveSpiHandler s).cfg = s.cfg := rfl

end Sys2Proof.Machine
end

