-- ==== Sys2Proof/Laws/Memory.lean ====
section
/-! SUPPORT. The laws of `MEM`: a read after a write, and every memory operation keeps the canonical form. -/

namespace Sys2Proof.Machine

/-- A byte reads as it was written, and every other byte reads as before. -/
theorem Memory.readByte_writeByte (m : Memory) (hs : m.Pairwise (fun c d => c.1 < d.1)) (a : Nat) (v : Byte) (x : Nat) :
    (m.writeByte a v).readByte x = if x = a then v else m.readByte x := by
  induction m with
  | nil =>
    simp only [Memory.writeByte]
    split <;> rename_i hv
    · subst hv; simp [Memory.readByte]
    · simp [Memory.readByte, eq_comm]
  | cons c rest ih =>
    obtain ⟨k, u⟩ := c
    obtain ⟨hk, hrest⟩ := List.pairwise_cons.mp hs
    have absent : ∀ y, y ≤ k → Memory.readByte rest y = unlistedByte := by
      intro y hy
      clear ih hs
      induction rest with
      | nil => rfl
      | cons d t iht =>
        have hd := hk d (List.mem_cons_self ..)
        have hne : d.1 ≠ y := by simp only at hd; omega
        simp only [Memory.readByte, hne, if_false]
        exact iht (fun e he => hk e (List.mem_cons_of_mem _ he)) (List.pairwise_cons.mp hrest).2
    simp only [Memory.writeByte]
    split
    · rename_i hak
      split
      · rename_i hv
        subst hv
        split
        · rename_i hx; subst hx
          simp only [Memory.readByte, show k ≠ x by omega, if_false]
          exact absent x (by omega)
        · rfl
      · by_cases hx : x = a
        · simp [Memory.readByte, hx]
        · simp [Memory.readByte, hx, Ne.symm hx]
    · rename_i hak
      split
      · rename_i ha; subst ha
        split
        · rename_i hv; subst hv
          by_cases hx : x = a
          · simp [hx, absent]
          · simp [Memory.readByte, hx, Ne.symm hx]
        · by_cases hx : x = a
          · simp [Memory.readByte, hx]
          · simp [Memory.readByte, hx, Ne.symm hx]
      · rename_i ha
        simp only [Memory.readByte, ih hrest]
        by_cases hx : x = a
        · simp [hx, Ne.symm ha]
        · simp [hx]

/-- An entry of a written memory is the written byte or an old entry. -/
theorem Memory.mem_writeByte {m : Memory} {a : Nat} {v : Byte} {c : Host.Cell} (h : c ∈ m.writeByte a v) :
    (c = (a, v) ∧ v ≠ unlistedByte) ∨ c ∈ m := by
  induction m with
  | nil =>
    simp only [Memory.writeByte] at h
    split at h <;> simp_all
  | cons d rest ih =>
    obtain ⟨k, u⟩ := d
    simp only [Memory.writeByte] at h
    split at h
    · split at h <;> simp_all
    · split at h
      · split at h
        · simp_all
        · simp_all; tauto
      · rcases List.mem_cons.mp h with h | h
        · simp [h]
        · rcases ih h with h | h <;> simp [h]

/-- Storing one byte keeps the canonical form. -/
theorem Memory.wf_writeByte {m : Memory} (hm : Memory.wf m) {a : Nat} (ha : a < Config.addressSpace) (v : Byte) :
    Memory.wf (m.writeByte a v) := by
  refine ⟨?_, fun c hc => ?_⟩
  · have hs := hm.1
    clear hm
    induction m with
    | nil =>
      simp only [Memory.writeByte]
      split <;> simp
    | cons d rest ih =>
      obtain ⟨k, u⟩ := d
      obtain ⟨hk, hrest⟩ := List.pairwise_cons.mp hs
      simp only [Memory.writeByte]
      split
      · rename_i hak
        split
        · exact hs
        · refine List.pairwise_cons.mpr ⟨fun c hc => ?_, hs⟩
          rcases List.mem_cons.mp hc with hc | hc
          · simpa [hc] using hak
          · exact lt_trans hak (hk c hc)
      · split
        · rename_i ha'; subst ha'
          split
          · exact hrest
          · exact List.pairwise_cons.mpr ⟨hk, hrest⟩
        · rename_i h1 h2
          refine List.pairwise_cons.mpr ⟨fun c hc => ?_, ih hrest⟩
          rcases Memory.mem_writeByte hc with ⟨hc, -⟩ | hc
          · simp only [hc]; omega
          · exact hk c hc
  · rcases Memory.mem_writeByte hc with ⟨rfl, hv⟩ | hc
    · exact ⟨hv, ha⟩
    · exact hm.2 c hc

/-- The key of every byte of an access lies in the address space (rule R50). -/
theorem byteAddr_lt (a : Word) (k : Nat) : byteAddr a k < Config.addressSpace :=
  (a + BitVec.ofNat 32 k).isLt

/-- Storing a word keeps the canonical form. -/
theorem Memory.wf_writeWord {m : Memory} (hm : Memory.wf m) (a : Word) (v : Word) : Memory.wf (m.writeWord a v) :=
  Memory.wf_writeByte (Memory.wf_writeByte (Memory.wf_writeByte (Memory.wf_writeByte hm (byteAddr_lt a 0) _)
    (byteAddr_lt a 1) _) (byteAddr_lt a 2) _) (byteAddr_lt a 3) _

/-- A requester's own store keeps the canonical form. -/
theorem Memory.wf_store {m : Memory} (hm : Memory.wf m) (width : Width) (a : Word) (v : Word) :
    Memory.wf (m.store width a v) := by
  cases width with
  | byte => exact Memory.wf_writeByte hm (byteAddr_lt a 0) _
  | half => exact Memory.wf_writeByte (Memory.wf_writeByte hm (byteAddr_lt a 0) _) (byteAddr_lt a 1) _
  | word => exact Memory.wf_writeWord hm a v

/-- A byte outside the four bytes of a stored word reads as before. -/
theorem Memory.readByte_writeWord_ne {m : Memory} (hm : Memory.wf m) (a v : Word) (x : Nat)
    (hx : ∀ k < 4, x ≠ byteAddr a k) : (m.writeWord a v).readByte x = m.readByte x := by
  have h0 := Memory.wf_writeByte hm (byteAddr_lt a 0) (v.extractLsb' 0 8)
  have h1 := Memory.wf_writeByte h0 (byteAddr_lt a 1) (v.extractLsb' 8 8)
  have h2 := Memory.wf_writeByte h1 (byteAddr_lt a 2) (v.extractLsb' 16 8)
  rw [Memory.writeWord, Memory.readByte_writeByte _ h2.1, Memory.readByte_writeByte _ h1.1,
    Memory.readByte_writeByte _ h0.1, Memory.readByte_writeByte _ hm.1]
  simp [hx 0, hx 1, hx 2, hx 3]

/-- The memory of the reset state has the canonical form. -/
theorem Memory.wf_reset : Memory.wf State.reset.mem := by decide

end Sys2Proof.Machine
end

