-- ==== Sys2Proof/Laws/Ops.lean ====
section
/-! SUPPORT. One lemma per shared operation that says everything it can do: requesters, banks, presenting a command, and
the step of the machine. -/

namespace Sys2Proof.Machine

/-! ### Requesters -/

/-- A field of requester `r'` after an update of requester `r`. -/
theorem State.getElem?_modReq (s : State) (r r' : Nat) (f : Requester → Requester) :
    (s.modReq r f).reqs[r']? = if r = r' then s.reqs[r']?.map f else s.reqs[r']? := by
  simp only [State.modReq_reqs, List.getElem?_modify]
  split <;> simp_all

/-- The phase of an existing requester. -/
theorem State.phase_of_get {s : State} {r : Nat} {q : Requester} (h : s.reqs[r]? = some q) : s.phase r = q.ph := by
  simp [State.phase, h]

/-- The latch of an existing requester. -/
theorem State.latch_of_get {s : State} {r : Nat} {q : Requester} (h : s.reqs[r]? = some q) : s.latch r = q.req := by
  simp [State.latch, h]

/-- A requester that is not IDLE exists. -/
theorem State.get_of_phase {s : State} {r : Nat} (h : s.phase r ≠ .idle) :
    ∃ q, s.reqs[r]? = some q ∧ q.ph = s.phase r := by
  unfold State.phase at h ⊢
  cases hq : s.reqs[r]? with
  | none => simp [hq] at h
  | some q => exact ⟨q, rfl, rfl⟩

/-- Phases depend on the requesters alone. -/
theorem State.phase_congr {s t : State} (h : t.reqs = s.reqs) (r : Nat) : t.phase r = s.phase r := by
  simp [State.phase, h]

/-- Latches depend on the requesters alone. -/
theorem State.latch_congr {s t : State} (h : t.reqs = s.reqs) (r : Nat) : t.latch r = s.latch r := by
  simp [State.latch, h]

/-- Banks depend on the bank registers alone. -/
theorem State.bank_congr {s t : State} (h : t.banks = s.banks) (b : BankId) : t.bank b = s.bank b := by
  simp [State.bank, h]

/-- `PH` after an update of an existing requester. -/
theorem State.phase_modReq {s : State} {r : Nat} {q : Requester} (h : s.reqs[r]? = some q) (f : Requester → Requester)
    (r' : Nat) : (s.modReq r f).phase r' = if r' = r then (f q).ph else s.phase r' := by
  unfold State.phase
  rw [State.getElem?_modReq]
  by_cases hr : r' = r
  · subst hr; simp [h]
  · simp [hr, Ne.symm hr]

/-- `REQ` after an update of an existing requester. -/
theorem State.latch_modReq {s : State} {r : Nat} {q : Requester} (h : s.reqs[r]? = some q) (f : Requester → Requester)
    (r' : Nat) : (s.modReq r f).latch r' = if r' = r then (f q).req else s.latch r' := by
  unfold State.latch
  rw [State.getElem?_modReq]
  by_cases hr : r' = r
  · subst hr; simp [h]
  · simp [hr, Ne.symm hr]

/-- `PH` after `PH[r] <- p`. -/
theorem State.phase_setPhase {s : State} {r : Nat} {q : Requester} (h : s.reqs[r]? = some q) (p : Phase) (r' : Nat) :
    (s.setPhase r p).phase r' = if r' = r then p else s.phase r' :=
  State.phase_modReq h _ r'

/-- `PH[r] <- p` leaves every latch. -/
theorem State.latch_setPhase (s : State) (r : Nat) (p : Phase) (r' : Nat) :
    (s.setPhase r p).latch r' = s.latch r' := by
  unfold State.latch State.setPhase
  rw [State.getElem?_modReq]
  by_cases h : r = r'
  · subst h
    cases s.reqs[r]? <;> simp
  · simp [h]

/-! ### Banks -/

/-- Bank `b'` after bank `b` is replaced. -/
theorem State.bank_setBank (s : State) (b b' : BankId) (k : Bank) :
    (s.setBank b k).bank b' = if b' = b then k else s.bank b' := by
  simp only [State.bank, State.setBank, Fin.getElem_fin, Vector.getElem_set, Fin.ext_iff, eq_comm]

/-- A response leaves every bank. -/
@[simp] theorem State.bank_emit (s : State) (e : Event) (b : BankId) : (s.emit e).bank b = s.bank b := rfl

/-- An update of a requester leaves every bank. -/
@[simp] theorem State.bank_modReq (s : State) (r : Nat) (f : Requester → Requester) (b : BankId) :
    (s.modReq r f).bank b = s.bank b := rfl

/-- A phase change leaves every bank. -/
@[simp] theorem State.bank_setPhase (s : State) (r : Nat) (p : Phase) (b : BankId) :
    (s.setPhase r p).bank b = s.bank b := rfl

/-- A response leaves every bank. -/
@[simp] theorem State.bank_respond (s : State) (r : Nat) (w : Option Word) (b : BankId) :
    (s.respond r w).bank b = s.bank b := rfl

/-- A violation leaves every bank. -/
@[simp] theorem State.bank_raise (s : State) (r : Nat) (c : RspCode) (w : Word) (b : BankId) :
    (s.raise r c w).bank b = s.bank b := rfl

/-- No handler is active exactly when all four phases are idle (rule R4). -/
theorem handlerActive_eq_false {s : State} :
    s.handlerActive = false ↔ s.spiH = .idle ∧ ∀ b : BankId, (s.bank b).disp = .idle := by
  simp [State.handlerActive, State.spiActive, State.anyDispatcherActive, State.dispatcherActive, Fin.forall_fin_succ,
    and_assoc]

/-! ### Presenting a command -/

/-- What presenting a command can answer with (rules R4, R79). -/
theorem issue_next {s t : State} {act : Nat → Host.Outcome State Fault Refusal} (h : s.issue act = .next t) :
    ∃ q, s.reqs[s.cmdReq]? = some q ∧ q.ph = .idle ∧
      ((s.handlerActive = true ∧ t = s) ∨ (s.handlerActive = false ∧ act s.cmdReq = .next t)) := by
  unfold State.issue at h
  split at h
  · cases h
  · rename_i q hq
    split at h
    · cases h
    · rename_i hp
      refine ⟨q, hq, by simpa using hp, ?_⟩
      split at h
      · rename_i hh; cases h; exact .inl ⟨hh, rfl⟩
      · rename_i hh; exact .inr ⟨by simpa using hh, h⟩

/-- A command whose requester is IDLE while no handler is active acts. -/
theorem issue_eq {s : State} {q : Requester} (act : Nat → Host.Outcome State Fault Refusal)
    (hq : s.reqs[s.cmdReq]? = some q) (hp : q.ph = .idle) (hh : s.handlerActive = false) :
    s.issue act = act s.cmdReq := by
  simp [State.issue, hq, hp, hh]

/-! ### The step -/

/-- The step takes the first placed move. -/
theorem step_cons {s : State} {m : Move} {rest : List Move} (h : s.moves = m :: rest) :
    step s = runMove m { s with moves := rest } := by
  simp [step, h]

/-- An enabled move fires. -/
theorem runMove_enabled {s : State} {m : Move} (h : s.enabled m = true) : runMove m s = fire m s := by
  simp [runMove, h]

/-- A blocked agent takes no step. -/
theorem runMove_blocked {s : State} {m : Move} (h : s.enabled m = false) : runMove m s = .next s := by
  simp [runMove, h]

/-- A requester outside IDLE, T1 and T4 is never blocked while no handler is active (rules R4, R115). -/
theorem taskEnabled_of {s : State} {r : Nat} {q : Requester} (hq : s.reqs[r]? = some q)
    (hh : s.handlerActive = false) :
    taskEnabled s r =
      match q.ph with
      | .idle => !q.script.isEmpty
      | .t1 => mayAcquire s r
      | .t4 => s.sig
      | _ => true := by
  cases hp : q.ph <;> simp [taskEnabled, hq, hh, hp]

/-- What one step can do: nothing placed, a blocked agent, or the enabled step of the next move. -/
theorem step_next {s t : State} (h : step s = .next t) :
    (s.moves = [] ∧ t = s) ∨ ∃ m rest, s.moves = m :: rest ∧
      ((State.enabled { s with moves := rest } m = false ∧ t = { s with moves := rest }) ∨
       (State.enabled { s with moves := rest } m = true ∧ fire m { s with moves := rest } = .next t)) := by
  unfold step at h
  split at h
  · rename_i hm; cases h; exact .inl ⟨hm, rfl⟩
  · rename_i m rest hm
    refine .inr ⟨m, rest, hm, ?_⟩
    unfold runMove at h
    split at h
    · rename_i he; exact .inr ⟨he, h⟩
    · rename_i he; cases h; exact .inl ⟨by simpa using he, rfl⟩

/-- What the enabled step of a requester can do (rule R115): a script item, or the micro-step of its phase. -/
theorem taskStep_next {s t : State} {r : Nat} (he : taskEnabled s r = true) (h : taskStep r s = .next t) :
    ∃ q, s.reqs[r]? = some q ∧ s.handlerActive = false ∧
      ((q.ph = .idle ∧ ∃ item rest, q.script = item :: rest ∧ issueItem r item rest s = .next t) ∨
       (q.ph = .t1 ∧ mayAcquire s r = true ∧ t = t1Acquire r s) ∨
       (q.ph = .t2 ∧ t = t2StoreCallback r s) ∨ (q.ph = .t3a ∧ t = t3aProgram r s) ∨
       (q.ph = .t3b ∧ t = t3bEnableLine r s) ∨ (q.ph = .t3c ∧ t = t3cStart r s) ∨
       (q.ph = .t4 ∧ s.sig = true ∧ t = t4TakeSignal r s) ∨ (q.ph = .t5 ∧ t = t5Release r s) ∨
       (q.ph = .g1 ∧ t = g1Mask r s) ∨ (q.ph = .g2 ∧ t = g2Configure r s) ∨
       (q.ph = .g3 ∧ t = g3Install r s) ∨ (q.ph = .g4 ∧ t = g4Unmask r s)) := by
  unfold taskEnabled at he
  unfold taskStep at h
  cases hq : s.reqs[r]? with
  | none => simp [hq] at he
  | some q =>
    simp only [hq, Bool.and_eq_true, Bool.not_eq_true'] at he h
    refine ⟨q, rfl, he.1, ?_⟩
    cases hp : q.ph <;> simp only [hp] at he h
    case idle =>
      cases hs : q.script with
      | nil => simp [hs] at he
      | cons item rest => simp only [hs] at h; exact .inl ⟨rfl, item, rest, rfl, h⟩
    all_goals (cases h; simp [he])

end Sys2Proof.Machine
end

