-- ==== Sys2Proof/Laws/Exec.lean ====
section
/-! SUPPORT. One lemma per command that says what it answers when it acts, and one that says everything it can answer
with; the mapped-region test as a statement about bytes; small facts on lists and vectors the statements need. -/

namespace Sys2Proof.Machine

variable {s t : State} {q : Requester}

/-- Updating an existing entry of a list is setting it. -/
theorem modify_eq_set_of_get {α : Type} {l : List α} {r : Nat} {x : α} (h : l[r]? = some x) (f : α → α) :
    l.modify r f = l.set r (f x) := by
  rw [List.modify_eq_set_getElem?, h]; rfl

/-- An update of an existing requester, as a record. -/
theorem State.modReq_eq_set {r : Nat} (h : s.reqs[r]? = some q) (f : Requester → Requester) :
    s.modReq r f = { s with reqs := s.reqs.set r (f q) } := by
  simp [State.modReq, modify_eq_set_of_get h]

/-- Every byte of a range is mapped exactly when `allMapped` says so (rule R102). -/
theorem allMapped_iff (p : Params) (a n : Nat) :
    allMapped p a n = true ↔ ∀ k < n, isMapped p (a + k) = true := by
  induction n generalizing a with
  | zero => simp [allMapped]
  | succ n ih =>
    simp only [allMapped, Bool.and_eq_true, ih]
    constructor
    · rintro ⟨h0, h⟩ k hk
      cases k with
      | zero => simpa using h0
      | succ k =>
        have := h k (by omega)
        rwa [Nat.add_assoc, Nat.add_comm 1 k] at this
    · intro h
      refine ⟨by simpa using h 0 (by omega), fun k hk => ?_⟩
      have := h (k + 1) (by omega)
      rwa [Nat.add_assoc, Nat.add_comm 1 k]

/-- A bank operand below 3 names that bank (rule R77). -/
theorem bankOf_eq {bank : BitVec 2} {b : BankId} (h : bank.toNat = b.val) : bankOf bank = some b := by
  simp [bankOf, h]

/-- What ENCODE answers when it acts (rule R91). -/
theorem execEncode_eq (hq : s.reqs[s.cmdReq]? = some q) (hp : q.ph = .idle) (hh : s.handlerActive = false)
    (last : Bool) (cs : Byte) (payload : Half) :
    execEncode last cs payload s =
      match route cs with
      | none => .next (s.raise s.cmdReq .errCs (cs.setWidth 32))
      | some bits => .next (s.respond s.cmdReq (some (packWord last bits payload))) :=
  issue_eq _ hq hp hh

/-- Everything ENCODE can answer with. -/
theorem execEncode_next {last : Bool} {cs : Byte} {payload : Half} (h : execEncode last cs payload s = .next t) :
    t = s ∨ t = s.raise s.cmdReq .errCs (cs.setWidth 32) ∨
      ∃ bits, t = s.respond s.cmdReq (some (packWord last bits payload)) := by
  obtain ⟨q, -, -, ⟨-, h⟩ | ⟨-, h⟩⟩ := issue_next h
  · exact .inl h
  · split at h <;> cases h
    · exact .inr (.inl rfl)
    · exact .inr (.inr ⟨_, rfl⟩)

/-- What INIT answers when it acts (rule R100). -/
theorem execInit_eq (hq : s.reqs[s.cmdReq]? = some q) (hp : q.ph = .idle) (hh : s.handlerActive = false) :
    execInit s =
      .next (State.respond { s with
        ready := true, ieDone := true, banks := s.banks.map fun k => { k with nvic := true } } s.cmdReq none) :=
  issue_eq _ hq hp hh

/-- Everything INIT can answer with. -/
theorem execInit_next (h : execInit s = .next t) :
    t = s ∨ t = State.respond { s with
      ready := true, ieDone := true, banks := s.banks.map fun k => { k with nvic := true } } s.cmdReq none := by
  obtain ⟨q, -, -, ⟨-, h⟩ | ⟨-, h⟩⟩ := issue_next h
  · exact .inl h
  · cases h; exact .inr rfl

/-- What TRANSCEIVE answers when it acts (rule R102). -/
theorem execTransceive_eq (hq : s.reqs[s.cmdReq]? = some q) (hp : q.ph = .idle) (hh : s.handlerActive = false)
    (tx rx n : Word) (cb : Option Handle) :
    execTransceive tx rx n cb s =
      if s.cfg.bufCap < n.toNat then .next (s.raise s.cmdReq .errLen n)
      else
        match transferRefusal s tx rx n with
        | some why => .refused why
        | none =>
          .next { s with
            reqs := s.reqs.set s.cmdReq
              { q with ph := .t1, req := { q.req with tx := tx, rx := rx, n := n.setWidth 16, cb := cb } }
            waitq := s.waitq ++ [s.cmdReq] } := by
  rw [execTransceive, issue_eq _ hq hp hh]
  have hlt := (List.getElem?_eq_some_iff.mp hq).1
  have hset : (latchTransfer s s.cmdReq tx rx n cb).reqs =
      s.reqs.set s.cmdReq { q with req := { q.req with tx := tx, rx := rx, n := n.setWidth 16, cb := cb } } := by
    rw [latchTransfer, State.modReq_eq_set hq]
  split
  · rfl
  · cases transferRefusal s tx rx n with
    | some why => rfl
    | none =>
      simp only
      rw [State.setPhase, State.modReq_eq_set (q := { q with
        req := { q.req with tx := tx, rx := rx, n := n.setWidth 16, cb := cb } }) (by simp [hset, hlt])]
      simp [hset]
      simp [latchTransfer]

/-- Everything TRANSCEIVE can answer with as a next state. -/
theorem execTransceive_next {tx rx n : Word} {cb : Option Handle} (h : execTransceive tx rx n cb s = .next t) :
    t = s ∨ t = s.raise s.cmdReq .errLen n ∨
      ∃ q, s.reqs[s.cmdReq]? = some q ∧ q.ph = .idle ∧ s.handlerActive = false ∧ n.toNat ≤ s.cfg.bufCap ∧
        transferRefusal s tx rx n = none ∧
        t = { s with
          reqs := s.reqs.set s.cmdReq
            { q with ph := .t1, req := { q.req with tx := tx, rx := rx, n := n.setWidth 16, cb := cb } }
          waitq := s.waitq ++ [s.cmdReq] } := by
  obtain ⟨q, hq, hp, ⟨-, h'⟩ | ⟨hh, -⟩⟩ := issue_next h
  · exact .inl h'
  · rw [execTransceive_eq hq hp hh] at h
    split at h
    · cases h; exact .inr (.inl rfl)
    · split at h <;> cases h
      rename_i hr
      exact .inr (.inr ⟨q, hq, hp, hh, by omega, hr, rfl⟩)

/-- A request that no test of T0 refuses was made after INIT and passes every check (rule R102). -/
theorem transferRefusal_none {tx rx n : Word} (h : transferRefusal s tx rx n = none) :
    s.ready = true ∧ n ≠ 0 ∧ isAligned tx = true ∧ isAligned rx = true ∧
      regionFits tx n.toNat = true ∧ regionFits rx n.toNat = true ∧ regionsMeet tx rx n.toNat = false ∧
      allMapped s.cfg tx.toNat (4 * n.toNat) = true ∧ allMapped s.cfg rx.toNat (4 * n.toNat) = true := by
  unfold transferRefusal at h
  split at h
  · cases h
  · split at h
    · cases h
    · split at h
      · cases h
      · split at h
        · cases h
        · split at h
          · cases h
          · split at h
            · cases h
            · simp_all

/-- What GPIO_REGISTER answers when it acts on an existing bank (rule R140). -/
theorem execGpioRegister_eq (hq : s.reqs[s.cmdReq]? = some q) (hp : q.ph = .idle) (hh : s.handlerActive = false)
    {bank : BitVec 2} {b : BankId} (hb : bankOf bank = some b) (pin : BitVec 5) (mode : TrigMode) (hook : Handle) :
    execGpioRegister bank pin mode hook s =
      .next { s with
        reqs := s.reqs.set s.cmdReq
          { q with ph := .g1, req := { q.req with bank := b, pin := pinOf pin, mode := mode, hook := hook } } } := by
  rw [execGpioRegister, issue_eq _ hq hp hh]
  have hlt := (List.getElem?_eq_some_iff.mp hq).1
  simp only [hb]
  rw [latchRegistration, State.modReq_eq_set hq, State.setPhase, State.modReq_eq_set (q := { q with
    req := { q.req with bank := b, pin := pinOf pin, mode := mode, hook := hook } }) (by simp [hlt])]
  simp

/-- Everything GPIO_REGISTER can answer with. -/
theorem execGpioRegister_next {bank : BitVec 2} {pin : BitVec 5} {mode : TrigMode} {hook : Handle}
    (h : execGpioRegister bank pin mode hook s = .next t) :
    t = s ∨ t = s.raise s.cmdReq .errBank (bank.setWidth 32) ∨
      ∃ q b, s.reqs[s.cmdReq]? = some q ∧ q.ph = .idle ∧ s.handlerActive = false ∧ bankOf bank = some b ∧
        t = { s with
          reqs := s.reqs.set s.cmdReq
            { q with ph := .g1, req := { q.req with bank := b, pin := pinOf pin, mode := mode, hook := hook } } } := by
  obtain ⟨q, hq, hp, ⟨-, h'⟩ | ⟨hh, h'⟩⟩ := issue_next h
  · exact .inl h'
  · cases hb : bankOf bank with
    | none => simp only [hb] at h'; cases h'; exact .inr (.inl rfl)
    | some b =>
      rw [execGpioRegister_eq hq hp hh hb] at h
      cases h; exact .inr (.inr ⟨q, b, hq, hp, hh, rfl, rfl⟩)

/-- Everything GPIO_UNREGISTER can answer with (rule R146). -/
theorem execGpioUnregister_next {bank : BitVec 2} {pin : BitVec 5} (h : execGpioUnregister bank pin s = .next t) :
    t = s ∨ t = s.raise s.cmdReq .errBank (bank.setWidth 32) ∨
      ∃ b, bankOf bank = some b ∧
        t = (s.setBank b ((s.bank b).writeIdr (pinMask (pinOf pin)))).respond s.cmdReq none := by
  obtain ⟨q, -, -, ⟨-, h'⟩ | ⟨-, h'⟩⟩ := issue_next h
  · exact .inl h'
  · cases hb : bankOf bank with
    | none => simp only [hb] at h'; cases h'; exact .inr (.inl rfl)
    | some b => simp only [hb] at h'; cases h'; exact .inr (.inr ⟨b, rfl, rfl⟩)

/-- Everything a control word can answer with (rule R110). -/
theorem moveControlWord_next {w : Word} (h : moveControlWord w s = .next t) :
    (s.dmaTxEnabled = false ∧ t = s) ∨ (s.dmaTxEnabled = true ∧ t = dmaTransmit w s) := by
  unfold moveControlWord at h
  cases hd : s.dmaTxEnabled <;> simp only [hd, if_true] at h <;> cases h
  · exact .inl ⟨rfl, rfl⟩
  · exact .inr ⟨rfl, rfl⟩

end Sys2Proof.Machine
end

