-- ==== Sys2Proof/Laws/PerInstr.lean ====
section
/-! SUPPORT. Facts about every instruction as syntax, one lemma per constructor of `Instr`. -/

namespace Sys2Proof.Laws.MatchesTable

/-- The raw form has the bits that a 32-bit row of the opcode table fixes: `w & 0xFEFF0000` is the row's match value. -/
def isWordOf (matchBits : Word) : Encoded → Prop
  | .controlWord w => w &&& 0xFEFF0000#32 = matchBits
  | .command _ => False

/-- The raw form presents the operation code of a 4-bit row. -/
def isCommandOf (op : BitVec 4) : Encoded → Prop
  | .controlWord _ => False
  | .command p => p.op = op

/-- The encoding of an instruction has every bit its row of the opcode table fixes. -/
def Statement (i : Instr) : Prop :=
  match i with
  | .cwS0 _ _ => isWordOf 0x00000000 (encode i)
  | .cwS1 _ _ => isWordOf 0x00010000 (encode i)
  | .cwS2 _ _ => isWordOf 0x00030000 (encode i)
  | .cwS3 _ _ => isWordOf 0x00070000 (encode i)
  | .encode _ _ _ => isCommandOf 1 (encode i)
  | .transceive _ _ _ _ => isCommandOf 2 (encode i)
  | .gpioRegister _ _ _ _ => isCommandOf 3 (encode i)
  | .gpioUnregister _ _ => isCommandOf 4 (encode i)
  | .init => isCommandOf 5 (encode i)

/-- The mask `0xFEFF0000` keeps exactly the route of a packed word. -/
theorem packWord_and_mask (l : Bool) (route : Byte) (td : Half) :
    packWord l route td &&& 0xFEFF0000#32 = route.setWidth 32 <<< 16 := by
  apply BitVec.eq_of_getLsbD_eq
  intro i hi
  have hmask : (0xFEFF0000#32).getLsbD i = (decide (16 ≤ i) && decide (i ≠ 24)) := by
    interval_cases i <;> rfl
  simp only [BitVec.getLsbD_and, hmask]
  rw [getLsbD_packWord _ _ _ _]
  by_cases h16 : i < 16
  · simp [h16]
  · by_cases h24 : i < 24
    · simp [h16, h24, hi]; omega
    · have : 16 ≤ i := by omega
      have h8 : 8 ≤ i - 16 := by omega
      simp [h16, h24, hi, this, BitVec.getLsbD_of_ge route (i - 16) h8]; omega

theorem cwS0 (l : Bool) (td : Half) : Statement (.cwS0 l td) := packWord_and_mask l 0x00 td
theorem cwS1 (l : Bool) (td : Half) : Statement (.cwS1 l td) := packWord_and_mask l 0x01 td
theorem cwS2 (l : Bool) (td : Half) : Statement (.cwS2 l td) := packWord_and_mask l 0x03 td
theorem cwS3 (l : Bool) (td : Half) : Statement (.cwS3 l td) := packWord_and_mask l 0x07 td
theorem encode (last : Bool) (cs : Byte) (payload : Half) : Statement (.encode last cs payload) := rfl
theorem transceive (tx rx n : Word) (cb : Option Handle) : Statement (.transceive tx rx n cb) := by
  cases cb <;> rfl
theorem gpioRegister (bank : BitVec 2) (pin : BitVec 5) (mode : TrigMode) (hook : Handle) :
    Statement (.gpioRegister bank pin mode hook) := rfl
theorem gpioUnregister (bank : BitVec 2) (pin : BitVec 5) : Statement (.gpioUnregister bank pin) := rfl
theorem init : Statement .init := rfl

end Sys2Proof.Laws.MatchesTable
end

