-- ==== Sys2Proof/Laws/Step.lean ====
section
/-! SUPPORT. Everything an enabled step can do, said once: one constructor of `Fired` per rule, with the whole next
state. -/

namespace Sys2Proof.Machine

/-- The request passed every test of T0 (rule R102). -/
def Accepts (s : State) (tx rx n : Word) : Prop :=
  n.toNat ≤ s.cfg.bufCap ∧ transferRefusal s tx rx n = none

/-- What the enabled step of a move can do: `Fired m s t` when `t` is the state after it. -/
inductive Fired : Move → State → State → Prop where
  /-- A command that only responds: ENCODE, and every contract violation. -/
  | respond (s : State) (r : Nat) (q : Requester) (c : Port) (i : Instr) (items : List Item) (code : RspCode)
      (info : Word) (word : Option Word) (hq : s.reqs[r]? = some q) (hp : q.ph = .idle) (hh : s.handlerActive = false)
      (hs : q.script = .command c :: items) (hd : decode (.command c) = .instr i) :
      Fired (.task r) s { s with
        reqs := s.reqs.set r { q with script := items }, cmdReq := r, trace := s.trace ++ [.rsp r code info word] }
  /-- INIT. -/
  | init (s : State) (r : Nat) (q : Requester) (c : Port) (items : List Item)
      (hq : s.reqs[r]? = some q) (hp : q.ph = .idle) (hh : s.handlerActive = false)
      (hs : q.script = .command c :: items) (hd : decode (.command c) = .instr .init) :
      Fired (.task r) s { s with
        reqs := s.reqs.set r { q with script := items }, cmdReq := r, ready := true, ieDone := true
        banks := s.banks.map fun k => { k with nvic := true }, trace := s.trace ++ [.rsp r .ok 0 none] }
  /-- T0 of an accepted TRANSCEIVE. -/
  | t0 (s : State) (r : Nat) (q : Requester) (c : Port) (items : List Item) (tx rx n : Word) (cb : Option Handle)
      (hq : s.reqs[r]? = some q) (hp : q.ph = .idle) (hh : s.handlerActive = false)
      (hs : q.script = .command c :: items) (hd : decode (.command c) = .instr (.transceive tx rx n cb))
      (ha : Accepts s tx rx n) :
      Fired (.task r) s { s with
        reqs := s.reqs.set r
          { q with script := items, ph := .t1, req := { q.req with tx := tx, rx := rx, n := n.setWidth 16, cb := cb } }
        cmdReq := r, waitq := s.waitq ++ [r] }
  /-- G0 of a GPIO_REGISTER of an existing bank. -/
  | g0 (s : State) (r : Nat) (q : Requester) (c : Port) (items : List Item) (bank : BitVec 2) (pin : BitVec 5)
      (m : TrigMode) (h : Handle) (b : BankId) (hq : s.reqs[r]? = some q) (hp : q.ph = .idle)
      (hh : s.handlerActive = false) (hs : q.script = .command c :: items)
      (hd : decode (.command c) = .instr (.gpioRegister bank pin m h)) (hb : bankOf bank = some b) :
      Fired (.task r) s { s with
        reqs := s.reqs.set r
          { q with script := items, ph := .g1, req := { q.req with bank := b, pin := pinOf pin, mode := m, hook := h } }
        cmdReq := r }
  /-- GPIO_UNREGISTER of a pin of an existing bank. -/
  | unregister (s : State) (r : Nat) (q : Requester) (c : Port) (items : List Item) (bank : BitVec 2) (pin : BitVec 5)
      (b : BankId) (hq : s.reqs[r]? = some q) (hp : q.ph = .idle) (hh : s.handlerActive = false)
      (hs : q.script = .command c :: items) (hd : decode (.command c) = .instr (.gpioUnregister bank pin))
      (hb : bankOf bank = some b) :
      Fired (.task r) s { s with
        reqs := s.reqs.set r { q with script := items }, cmdReq := r
        banks := s.banks.set b ((s.bank b).writeIdr (pinMask (pinOf pin))), trace := s.trace ++ [.rsp r .ok 0 none] }
  /-- A requester's own read of `MEM`. -/
  | load (s : State) (r : Nat) (q : Requester) (width : Width) (a : Word) (items : List Item)
      (hq : s.reqs[r]? = some q) (hp : q.ph = .idle) (hh : s.handlerActive = false)
      (hs : q.script = .load width a :: items) :
      Fired (.task r) s { s with reqs := s.reqs.set r { q with script := items, lastRead := s.mem.load width a } }
  /-- A requester's own write of `MEM`. -/
  | store (s : State) (r : Nat) (q : Requester) (width : Width) (a v : Word) (items : List Item)
      (hq : s.reqs[r]? = some q) (hp : q.ph = .idle) (hh : s.handlerActive = false)
      (hs : q.script = .store width a v :: items) :
      Fired (.task r) s { s with reqs := s.reqs.set r { q with script := items }, mem := s.mem.store width a v }
  | t1 (s : State) (r : Nat) (q : Requester) (hq : s.reqs[r]? = some q) (hp : q.ph = .t1)
      (hh : s.handlerActive = false) (hm : mayAcquire s r = true) :
      Fired (.task r) s { s with
        lock := some r, waitq := s.waitq.filter (· ≠ r), reqs := s.reqs.set r { q with ph := .t2 } }
  | t2 (s : State) (r : Nat) (q : Requester) (hq : s.reqs[r]? = some q) (hp : q.ph = .t2)
      (hh : s.handlerActive = false) :
      Fired (.task r) s { s with cb := q.req.cb, reqs := s.reqs.set r { q with ph := .t3a } }
  | t3a (s : State) (r : Nat) (q : Requester) (hq : s.reqs[r]? = some q) (hp : q.ph = .t3a)
      (hh : s.handlerActive = false) :
      Fired (.task r) s { s with
        tpr := q.req.tx, tcr := q.req.n, rpr := q.req.rx, rcr := q.req.n, reqs := s.reqs.set r { q with ph := .t3b } }
  | t3b (s : State) (r : Nat) (q : Requester) (hq : s.reqs[r]? = some q) (hp : q.ph = .t3b)
      (hh : s.handlerActive = false) :
      Fired (.task r) s { s with nvicSpi := true, reqs := s.reqs.set r { q with ph := .t3c } }
  | t3c (s : State) (r : Nat) (q : Requester) (hq : s.reqs[r]? = some q) (hp : q.ph = .t3c)
      (hh : s.handlerActive = false) :
      Fired (.task r) s { s with en := true, reqs := s.reqs.set r { q with ph := .t4 } }
  | t4 (s : State) (r : Nat) (q : Requester) (hq : s.reqs[r]? = some q) (hp : q.ph = .t4)
      (hh : s.handlerActive = false) (hsig : s.sig = true) :
      Fired (.task r) s { s with sig := false, reqs := s.reqs.set r { q with ph := .t5 } }
  | t5 (s : State) (r : Nat) (q : Requester) (hq : s.reqs[r]? = some q) (hp : q.ph = .t5)
      (hh : s.handlerActive = false) :
      Fired (.task r) s { s with
        lock := none, trace := s.trace ++ [.rsp r .ok 0 none], reqs := s.reqs.set r { q with ph := .idle } }
  | g1 (s : State) (r : Nat) (q : Requester) (hq : s.reqs[r]? = some q) (hp : q.ph = .g1)
      (hh : s.handlerActive = false) :
      Fired (.task r) s { s with
        banks := s.banks.set q.req.bank ((s.bank q.req.bank).writeIdr (pinMask q.req.pin))
        reqs := s.reqs.set r { q with ph := .g2 } }
  | g2 (s : State) (r : Nat) (q : Requester) (hq : s.reqs[r]? = some q) (hp : q.ph = .g2)
      (hh : s.handlerActive = false) :
      Fired (.task r) s { s with
        banks := s.banks.set q.req.bank
          { s.bank q.req.bank with mode := (s.bank q.req.bank).mode.set q.req.pin (some q.req.mode) }
        reqs := s.reqs.set r { q with ph := .g3 } }
  | g3 (s : State) (r : Nat) (q : Requester) (hq : s.reqs[r]? = some q) (hp : q.ph = .g3)
      (hh : s.handlerActive = false) :
      Fired (.task r) s { s with
        banks := s.banks.set q.req.bank
          { s.bank q.req.bank with hook := (s.bank q.req.bank).hook.set q.req.pin (some q.req.hook) }
        reqs := s.reqs.set r { q with ph := .g4 } }
  | g4 (s : State) (r : Nat) (q : Requester) (hq : s.reqs[r]? = some q) (hp : q.ph = .g4)
      (hh : s.handlerActive = false) :
      Fired (.task r) s { s with
        banks := s.banks.set q.req.bank ((s.bank q.req.bank).writeIer (pinMask q.req.pin))
        trace := s.trace ++ [.rsp r .ok 0 none], reqs := s.reqs.set r { q with ph := .idle } }
  | dmaTx (s : State) (hen : s.en = true) (htcr : s.tcr ≠ 0) :
      Fired .dmaTx s { s with
        trace := s.trace ++ [.spiTx (s.mem.readWord s.tpr)], tpr := s.tpr + 4, tcr := s.tcr - 1, infl := s.infl + 1 }
  | dmaRx (s : State) (draw : Word) (hen : s.en = true) (hrcr : s.rcr ≠ 0) (hinfl : 0 < s.infl) :
      Fired (.dmaRx draw) s { s with
        mem := s.mem.writeWord s.rpr draw, rpr := s.rpr + 4, rcr := s.rcr - 1, infl := s.infl - 1
        done := s.done || s.lastReceive }
  | spiEntry (s : State) (hi : s.spiH = .idle) (he : s.spiEntryEnabled = true) :
      Fired .spi s { s with spiH := .a }
  | spiA (s : State) (hi : s.spiH = .a) : Fired .spi s { s with done := false, spiH := .b }
  | spiB (s : State) (hi : s.spiH = .b) :
      Fired .spi s { s with
        trace := s.trace ++ (match s.cb with | some h => [.cbInvoke h] | none => []), cb := none, spiH := .c }
  | spiC (s : State) (hi : s.spiH = .c) : Fired .spi s { s with sig := true, spiH := .d1 }
  | spiD1 (s : State) (hi : s.spiH = .d1) : Fired .spi s { s with en := false, spiH := .d2 }
  | spiD2 (s : State) (hi : s.spiH = .d2) : Fired .spi s { s with nvicSpi := false, spiH := .idle }
  | gpioEntry (s : State) (b : BankId) (hi : (s.bank b).disp = .idle) (he : s.dispatcherEntryEnabled b = true) :
      Fired (.gpio b) s { s with banks := s.banks.set b { s.bank b with disp := .entered } }
  | gpioRead (s : State) (b : BankId) (hi : (s.bank b).disp = .entered) :
      Fired (.gpio b) s { s with
        banks := s.banks.set b { s.bank b with isr := 0, disp := .scan ((s.bank b).isr &&& (s.bank b).imr) 0 } }
  | gpioScan (s : State) (b : BankId) (snapshot : Word) (i : PinId) (hi : (s.bank b).disp = .scan snapshot i) :
      Fired (.gpio b) s { s with
        banks := s.banks.set b { s.bank b with disp := nextScan snapshot i }
        trace := s.trace ++
          (if snapshot.getLsbD i then
            match (s.bank b).hook[i] with
            | some h => [.hookInvoke b i h]
            | none => []
          else []) }
  | pin (s : State) (b : BankId) (p : PinId) (level choice : Bool) :
      Fired (.pin b p level choice) s { s with banks := s.banks.set b ((s.bank b).pinEvent p level choice) }

/-- The enabled step of a requester in `IDLE` with a command (rules R79, R230). -/
theorem fired_command {s t : State} {r : Nat} {q : Requester} {p : Port} {items : List Item} {i : Instr}
    (hq : s.reqs[r]? = some q) (hp : q.ph = .idle) (hh : s.handlerActive = false)
    (hs : q.script = .command p :: items) (hd : decode (.command p) = .instr i)
    (h : exec i (presentCommand r items s) = .next t) : Fired (.task r) s t := by
  have hlt := (List.getElem?_eq_some_iff.mp hq).1
  have hpres : presentCommand r items s =
      { s with reqs := s.reqs.set r { q with script := items }, cmdReq := r } := by
    rw [presentCommand, State.modReq_eq_set hq]
  rw [hpres] at h
  generalize hs' : ({ s with reqs := s.reqs.set r { q with script := items }, cmdReq := r } : State) = s' at h
  have hq' : s'.reqs[s'.cmdReq]? = some { q with script := items } := by subst hs'; simp [hlt]
  have hh' : s'.handlerActive = false := by subst hs'; exact hh
  have key : ∀ act, s'.issue act = act r := by
    intro act; rw [issue_eq act hq' hp hh']; subst hs'; rfl
  have stay : ∀ code info word, t = s'.emit (.rsp r code info word) → Fired (.task r) s t := by
    intro code info word ht
    subst hs'; subst ht; exact .respond s r q _ _ items code info word hq hp hh hs hd
  have hset : ∀ x, s'.reqs.set r x = s.reqs.set r x := by intro x; subst hs'; simp
  cases i with
  | cwS0 l td => simp only [decode, decodePort] at hd; split at hd <;> cases hd
  | cwS1 l td => simp only [decode, decodePort] at hd; split at hd <;> cases hd
  | cwS2 l td => simp only [decode, decodePort] at hd; split at hd <;> cases hd
  | cwS3 l td => simp only [decode, decodePort] at hd; split at hd <;> cases hd
  | encode last cs payload =>
    simp only [exec, execEncode, key] at h
    split at h <;> (cases h; exact stay _ _ _ rfl)
  | init =>
    simp only [exec, execInit, key] at h
    cases h; subst hs'; exact .init s r q _ items hq hp hh hs hd
  | transceive tx rx n cb =>
    simp only [exec] at h
    rw [execTransceive_eq hq' hp hh'] at h
    split at h
    · cases h; subst hs'; exact stay _ _ _ rfl
    · rename_i hlen
      split at h <;> cases h
      rename_i hr
      subst hs'
      simp only [List.set_set]
      exact .t0 s r q _ items tx rx n cb hq hp hh hs hd ⟨by simpa using hlen, hr⟩
  | gpioRegister bank pin mode hook =>
    simp only [exec] at h
    cases hb : bankOf bank with
    | none => simp only [execGpioRegister, key, hb] at h; cases h; exact stay _ _ _ rfl
    | some b =>
      rw [execGpioRegister_eq hq' hp hh' hb] at h
      cases h; subst hs'
      simp only [List.set_set]
      exact .g0 s r q _ items bank pin mode hook b hq hp hh hs hd hb
  | gpioUnregister bank pin =>
    simp only [exec, execGpioUnregister, key] at h
    split at h
    · cases h; exact stay _ _ _ rfl
    · rename_i b hb
      cases h; subst hs'
      exact .unregister s r q _ items bank pin b hq hp hh hs hd hb

/-- Everything the enabled step of a move can do. -/
theorem fire_next {s t : State} {m : Move} (he : s.enabled m = true) (h : fire m s = .next t) : Fired m s t := by
  cases m with
  | task r =>
    obtain ⟨q, hq, hh, hcases⟩ := taskStep_next he h
    have hset : ∀ (s' : State) (p : Phase), s'.reqs = s.reqs →
        s'.setPhase r p = { s' with reqs := s.reqs.set r { q with ph := p } } := by
      intro s' p hr
      rw [State.setPhase, State.modReq_eq_set (s := s') (q := q) (by rw [hr]; exact hq), hr]
    have hl : s.latch r = q.req := State.latch_of_get hq
    rcases hcases with ⟨hp, item, items, hs, h⟩ | ⟨hp, hm, rfl⟩ | ⟨hp, rfl⟩ | ⟨hp, rfl⟩ | ⟨hp, rfl⟩ | ⟨hp, rfl⟩ |
      ⟨hp, hsig, rfl⟩ | ⟨hp, rfl⟩ | ⟨hp, rfl⟩ | ⟨hp, rfl⟩ | ⟨hp, rfl⟩ | ⟨hp, rfl⟩
    · cases item with
      | command p =>
        simp only [issueItem] at h
        split at h
        · cases h
        · rename_i i hd; exact fired_command hq hp hh hs hd h
      | load width a =>
        simp only [issueItem] at h
        split at h <;> cases h
        rw [State.modReq_eq_set hq]; exact .load s r q width a items hq hp hh hs
      | store width a v =>
        simp only [issueItem] at h
        split at h <;> cases h
        rw [State.modReq_eq_set hq]; exact .store s r q width a v items hq hp hh hs
    · rw [t1Acquire, hset] <;> first | rfl | exact .t1 s r q hq hp hh hm
    · rw [t2StoreCallback, hl, hset] <;> first | rfl | exact .t2 s r q hq hp hh
    · rw [t3aProgram, hl, hset] <;> first | rfl | exact .t3a s r q hq hp hh
    · rw [t3bEnableLine, hset] <;> first | rfl | exact .t3b s r q hq hp hh
    · rw [t3cStart, hset] <;> first | rfl | exact .t3c s r q hq hp hh
    · rw [t4TakeSignal, hset] <;> first | rfl | exact .t4 s r q hq hp hh hsig
    · rw [t5Release, hset] <;> first | rfl | exact .t5 s r q hq hp hh
    · simp only [g1Mask, hl]; rw [hset] <;> first | rfl | exact .g1 s r q hq hp hh
    · simp only [g2Configure, hl]; rw [hset] <;> first | rfl | exact .g2 s r q hq hp hh
    · simp only [g3Install, hl]; rw [hset] <;> first | rfl | exact .g3 s r q hq hp hh
    · simp only [g4Unmask, hl]; rw [hset] <;> first | rfl | exact .g4 s r q hq hp hh
  | dmaTx =>
    simp only [State.enabled, State.dmaTxEnabled, Bool.and_eq_true, decide_eq_true_eq] at he
    have hen : s.dmaTxEnabled = true := by simp only [State.dmaTxEnabled, he.1, he.2, Bool.true_and, decide_eq_true_eq, ne_eq, not_false_eq_true]
    have key : ∀ w, moveControlWord w s = .next (dmaTransmit w s) := by
      intro w; simp only [moveControlWord, hen, if_true]
    have ht : t = dmaTransmit (s.mem.readWord s.tpr) s := by
      simp only [fire, dmaTxStep] at h
      cases hd : decode (.controlWord (s.mem.readWord s.tpr)) with
      | reserved why => simp only [hd] at h; cases h; rfl
      | instr i =>
        simp only [hd] at h
        simp only [decode, decodeWord] at hd
        split at hd
        · cases hd
        · rename_i l cs td hcw
          obtain ⟨bits, hr, hw⟩ := decodeControlWord_some hcw
          rcases route_some hr with ⟨rfl, rfl⟩ | ⟨rfl, rfl⟩ | ⟨rfl, rfl⟩ | ⟨rfl, rfl⟩ <;>
            (simp at hd; subst hd; simp only [exec, execCwS0, execCwS1, execCwS2, execCwS3, key] at h; cases h; rw [hw])
    subst ht; exact .dmaTx s he.1 he.2
  | dmaRx draw =>
    simp only [State.enabled, State.dmaRxEnabled, Bool.and_eq_true, decide_eq_true_eq] at he
    cases h; exact .dmaRx s draw he.1.1 he.1.2 he.2
  | spi =>
    cases h
    simp only [spiHandlerStep]
    cases hi : s.spiH with
    | idle =>
      simp only [State.enabled, State.spiActive, hi, ne_eq, not_true_eq_false, decide_false, Bool.false_or] at he
      exact .spiEntry s hi he
    | a => exact .spiA s hi
    | b =>
      simp only [handlerCallback]
      have := Fired.spiB s hi
      cases hc : s.cb <;> simp only [hc, List.append_nil] at this ⊢ <;> exact this
    | c => exact .spiC s hi
    | d1 => exact .spiD1 s hi
    | d2 => exact .spiD2 s hi
  | gpio b =>
    cases h
    simp only [dispatcherStep]
    cases hi : (s.bank b).disp with
    | idle =>
      simp only [State.enabled, State.dispatcherActive, hi, ne_eq, not_true_eq_false, decide_false,
        Bool.false_or] at he
      exact .gpioEntry s b hi he
    | entered => exact .gpioRead s b hi
    | scan snapshot i =>
      have := Fired.gpioScan s b snapshot i hi
      simp only [dispatcherScan]
      split
      · rename_i hb
        split <;> rename_i hk <;> simp only [hb, hk, if_true, List.append_nil] at this <;> exact this
      · rename_i hb
        simp only [hb, Bool.false_eq_true, if_false, List.append_nil] at this; exact this
  | pin b p level choice => cases h; exact .pin s b p level choice

/-- Everything a step can do: with no move placed, or with a blocked one, nothing but the schedule's advance; else what
`Fired` says. -/
theorem step_fired {s t : State} (h : step s = .next t) :
    (s.moves = [] ∧ t = s) ∨ ∃ m rest, s.moves = m :: rest ∧
      ((State.enabled { s with moves := rest } m = false ∧ t = { s with moves := rest }) ∨
       (State.enabled { s with moves := rest } m = true ∧ Fired m { s with moves := rest } t)) := by
  rcases step_next h with h | ⟨m, rest, hm, h | ⟨he, h⟩⟩
  · exact .inl h
  · exact .inr ⟨m, rest, hm, .inl h⟩
  · exact .inr ⟨m, rest, hm, .inr ⟨he, fire_next he h⟩⟩

/-! ### Reading the next state of a `Fired` step -/

/-- A phase, where one requester was set. -/
theorem State.phase_of_set {s t : State} {r : Nat} {q q' : Requester} (h : s.reqs[r]? = some q)
    (ht : t.reqs = s.reqs.set r q') (r' : Nat) : t.phase r' = if r' = r then q'.ph else s.phase r' := by
  have hlt := (List.getElem?_eq_some_iff.mp h).1
  simp only [State.phase, ht, List.getElem?_set]
  by_cases e : r = r'
  · subst e; simp [hlt]
  · simp [e, Ne.symm e]

/-- A latch, where one requester was set. -/
theorem State.latch_of_set {s t : State} {r : Nat} {q q' : Requester} (h : s.reqs[r]? = some q)
    (ht : t.reqs = s.reqs.set r q') (r' : Nat) : t.latch r' = if r' = r then q'.req else s.latch r' := by
  have hlt := (List.getElem?_eq_some_iff.mp h).1
  simp only [State.latch, ht, List.getElem?_set]
  by_cases e : r = r'
  · subst e; simp [hlt]
  · simp [e, Ne.symm e]

/-- A bank, where one bank was set. -/
theorem State.bank_of_set {s t : State} {b : BankId} {k : Bank} (ht : t.banks = s.banks.set b k) (b' : BankId) :
    t.bank b' = if b' = b then k else s.bank b' := by
  rw [← State.bank_setBank s b b' k]; exact State.bank_congr ht b'

/-- The bits of a pin's mask. -/
theorem getLsbD_pinMask (p j : PinId) : (pinMask p).getLsbD j = decide (j = p) := by
  simp only [pinMask, BitVec.getLsbD_shiftLeft, BitVec.getLsbD_one]
  have := j.isLt
  by_cases h : j = p
  · subst h; simp
  · have : j.val ≠ p.val := fun e => h (Fin.ext e)
    simp [h]; omega

/-- A run of the core starts with a step. -/
theorem run_succ (k : Nat) (s t : State) (h : step s = .next t) :
    Host.Core.run Sys2Proof.core (k + 1) s = Host.Core.run Sys2Proof.core k t := by
  simp only [Host.Core.run, Sys2Proof.core, h]

end Sys2Proof.Machine
end

