-- ==== Sys2Proof/Tests/Slice0.lean ====
section
/-! SUPPORT. The model's own tests: ill-formed terms refused, words written out from the spec's encodings decoded, one
step of each instruction and agent on the vectors of `95_test_vectors.md`, and a witness for the hypotheses of every
statement. -/

namespace Sys2Proof.Tests

open Sys2Proof Sys2Proof.Machine

/-! ### Helpers -/

/-- A requester in a phase, with a latch and a script. -/
def task (ph : Phase) (script : List Item) (req : Latch := Latch.zero) : Requester := ⟨ph, req, script, 0⟩

/-- The reset state with one requester and the moves placed. -/
def one (q : Requester) (moves : List Move) : State := { State.reset with reqs := [q], moves := moves }

/-- The same after INIT. -/
def ready (q : Requester) (moves : List Move) : State :=
  { one q moves with ready := true, ieDone := true, banks := State.reset.banks.map fun k => { k with nvic := true } }

/-- What `f` reads in the next state, if there is one. -/
def after {α : Type} (o : Host.Outcome State Fault Refusal) (f : State → α) : Option α :=
  match o with
  | .next t => some (f t)
  | _ => none

/-- The reason of a refusal, if it is one. -/
def refusal (o : Host.Outcome State Fault Refusal) : Option Refusal :=
  match o with
  | .refused why => some why
  | _ => none

/-- The reason of a fault, if it is one. -/
def fault (o : Host.Outcome State Fault Refusal) : Option Fault :=
  match o with
  | .fault why => some why
  | _ => none

/-- There is a next state. -/
def goesOn (o : Host.Outcome State Fault Refusal) : Bool :=
  match o with
  | .next _ => true
  | _ => false

theorem next_of_goesOn {o : Host.Outcome State Fault Refusal} (h : goesOn o = true) : ∃ t, o = .next t := by
  cases o with
  | next t => exact ⟨t, rfl⟩
  | fault r => cases h
  | refused r => cases h

theorem next_of_after {α : Type} {o : Host.Outcome State Fault Refusal} {f : State → α} {x : α}
    (h : after o f = some x) : ∃ t, o = .next t ∧ f t = x := by
  cases o with
  | next t => exact ⟨t, rfl, Option.some.inj h⟩
  | fault r => cases h
  | refused r => cases h

theorem not_next_of_goesOn {o : Host.Outcome State Fault Refusal} (h : goesOn o = false) : ∀ t, o ≠ .next t := by
  rintro t rfl; cases h

/-- The latch of `TRANSCEIVE 0x20000000, 0x20000100, 2, h7`. -/
def twoWords : Latch := { Latch.zero with tx := 0x20000000, rx := 0x20000100, n := 2, cb := some ⟨7⟩ }

/-- That transfer with requester 0 in phase `ph`, holding the lock. -/
def held (ph : Phase) (moves : List Move) : State :=
  { ready (task ph [] twoWords) moves with lock := some 0 }

/-- That transfer started, one of its two words transmitted. -/
def running (moves : List Move) : State :=
  { held .t4 moves with
    en := true, nvicSpi := true, cb := some ⟨7⟩, tpr := 0x20000004, tcr := 1, rpr := 0x20000100, rcr := 2, infl := 1 }

/-- That transfer with every word moved. -/
def moved (ph : Phase) (moves : List Move) : State :=
  { held ph moves with tpr := 0x20000008, tcr := 0, rpr := 0x20000108, rcr := 0 }

/-- That transfer in its completion handler. -/
def handling (p : SpiPhase) (moves : List Move) : State :=
  { moved .t4 moves with en := true, nvicSpi := true, spiH := p }

/-- The latch of `GPIO_REGISTER 0, 4, FALL, h1`. -/
def pinFour : Latch := { Latch.zero with bank := 0, pin := 4, mode := .fall, hook := ⟨1⟩ }

/-- The ready block with bank 0 replaced by `f` of it. -/
def bankZero (f : Bank → Bank) (moves : List Move) : State :=
  State.setBank (ready (task .idle []) moves) 0 (f ((ready (task .idle []) moves).bank 0))

/-- Bank 0 with the hooks of vectors V-G30 to V-G36. -/
def hooked (k : Bank) : Bank :=
  { k with hook := ((k.hook.set 1 (some ⟨3⟩)).set 4 (some ⟨1⟩)).set 8 (some ⟨5⟩) }

/-! ### Ill-formed terms are refused by the well-formedness check -/

theorem test_encode_select_four_ill_formed : (Instr.encode false 4 0).wellFormed = false := by decide
theorem test_transceive_length_zero_ill_formed : (Instr.transceive 0 0 0 none).wellFormed = false := by decide
theorem test_transceive_length_65536_ill_formed : (Instr.transceive 0 0 65536 none).wellFormed = false := by decide
theorem test_transceive_length_65535_well_formed : (Instr.transceive 0 0 65535 none).wellFormed = true := by decide
theorem test_register_bank_three_ill_formed : (Instr.gpioRegister 3 0 .rise ⟨0⟩).wellFormed = false := by decide
theorem test_unregister_bank_three_ill_formed : (Instr.gpioUnregister 3 0).wellFormed = false := by decide
theorem test_capacity_twelve_ill_formed :
    Params.wellFormed { Config.resetParams with bufCap := 12 } = false := by decide
theorem test_capacity_65536_ill_formed :
    Params.wellFormed { Config.resetParams with bufCap := 65536 } = false := by decide
theorem test_region_past_top_ill_formed :
    Params.wellFormed { Config.resetParams with mapped := [⟨0xFFFFFF00, 0x101⟩] } = false := by decide
theorem test_reset_parameters_well_formed : Config.resetParams.wellFormed = true := by decide

/-! ### Decoding words written out from the spec (vectors V-D1 to V-D16, rules R76 to R79) -/

theorem test_decode_cw_s0 : decode (.controlWord 0b00000001000000000000000000000000#32) = .instr (.cwS0 true 0) := by
  decide
theorem test_decode_cw_s1 : decode (.controlWord 0b00000001000000010000000000101100#32) = .instr (.cwS1 true 0x2C) := by
  decide
theorem test_decode_cw_s2 : decode (.controlWord 0b00000000000000111010101111001101#32) = .instr (.cwS2 false 0xABCD) := by
  decide
theorem test_decode_cw_s3 : decode (.controlWord 0b00000001000001111111111111111111#32) = .instr (.cwS3 true 0xFFFF) := by
  decide
theorem test_decode_reserved_words :
    [0x00020000#32, 0x00040000#32, 0x00050000#32, 0x00060000#32, 0x00080000#32, 0x000F0000#32, 0x00800000#32,
      0x02000000#32, 0x80000000#32, 0xFFFFFFFF#32, 0x0207002C#32].all
      (fun w => decide (decode (.controlWord w) = .reserved (.controlWord w))) = true := by decide
/-- A port with every operand at a value no other command uses (rule R77). -/
def fullPort (op : BitVec 4) : Port :=
  ⟨op, 1, 0x03, 0xABCD, 0x20000000, 0x20000100, 0x0D, 1, ⟨7⟩, 2, 31, 1, ⟨9⟩⟩
theorem test_decode_encode : decode (.command (fullPort 1)) = .instr (.encode true 3 0xABCD) := by decide
theorem test_decode_transceive :
    decode (.command (fullPort 2)) = .instr (.transceive 0x20000000 0x20000100 13 (some ⟨7⟩)) := by decide
theorem test_decode_transceive_no_callback :
    decode (.command { fullPort 2 with cbValid := 0 }) = .instr (.transceive 0x20000000 0x20000100 13 none) := by decide
theorem test_decode_register : decode (.command (fullPort 3)) = .instr (.gpioRegister 2 31 .fall ⟨9⟩) := by decide
theorem test_decode_unregister : decode (.command (fullPort 4)) = .instr (.gpioUnregister 2 31) := by decide
theorem test_decode_init : decode (.command (fullPort 5)) = .instr .init := by decide
theorem test_decode_reserved_operations :
    [0#4, 6#4, 7#4, 8#4, 9#4, 10#4, 11#4, 12#4, 13#4, 14#4, 15#4].all
      (fun op => decide (decode (.command (fullPort op)) = .reserved (.operation op))) = true := by decide

/-! ### The placed table word is what the next step runs -/

theorem test_fetch_cw_s1 :
    after (step (State.reset.withFetchWord 32 0x0101002C)) (·.trace) = some [.spiTx 0x0101002C] := by decide +kernel
theorem test_fetch_encode :
    after (step (State.reset.withFetchWord 8 1)) (·.trace) = some [.rsp 0 .ok 0 (some 0)] := by decide +kernel
theorem test_fetch_transceive : refusal (step (State.reset.withFetchWord 8 2)) = some .notReady := by decide +kernel
theorem test_fetch_register :
    after (step (State.reset.withFetchWord 8 3)) (·.phase 0) = some .g1 := by decide +kernel
theorem test_fetch_unregister :
    after (step (State.reset.withFetchWord 8 4)) (·.trace) = some [.rsp 0 .ok 0 none] := by decide +kernel
theorem test_fetch_init : after (step (State.reset.withFetchWord 8 5)) (·.ready) = some true := by decide +kernel

/-! ### One step of each instruction, micro-step and agent -/

/-- V-E12. -/
theorem test_encode_document_example :
    after (exec (.encode true 1 0x2C) (one (task .idle []) [])) (·.trace) = some [.rsp 0 .ok 0 (some 0x0101002C)] := by
  decide +kernel
/-- V-E44. -/
theorem test_encode_violation :
    after (exec (.encode true 255 0x1234) (one (task .idle []) [])) (·.trace) = some [.rsp 0 .errCs 0xFF none] := by
  decide +kernel
/-- V-I1. -/
theorem test_init_from_reset :
    after (exec .init (one (task .idle []) [])) (fun t => (t.ready, t.ieDone, t.nvicSpi, (t.bank 2).nvic)) =
      some (true, true, false, true) := by decide +kernel
/-- V-I3. -/
theorem test_init_during_transfer :
    after (exec .init { running [] with reqs := (running []).reqs ++ [task .idle []], cmdReq := 1 })
      (fun t => (t.nvicSpi, t.en, t.trace)) = some (true, true, [.rsp 1 .ok 0 none]) := by decide +kernel
/-- V-T2. -/
theorem test_transceive_accepted :
    after (exec (.transceive 0x20000000 0x20000100 64 (some ⟨7⟩)) (ready (task .idle []) []))
      (fun t => (t.waitq, t.phase 0, (t.latch 0).n, (t.latch 0).cb)) = some ([0], .t1, 64, some ⟨7⟩) := by decide +kernel
/-- V-T4. -/
theorem test_transceive_too_long :
    after (exec (.transceive 0x20000000 0x20000100 0x00010000 none) (one (task .idle []) []))
      (fun t => (t.trace, t.phase 0)) = some ([.rsp 0 .errLen 0x00010000 none], .idle) := by decide +kernel
/-- V-T7 to V-T11, V-T13, V-T15, V-T16, V-T17. -/
theorem test_transceive_refused :
    refusal (exec (.transceive 0x20000000 0x20000100 1 none) (one (task .idle []) [])) = some .notReady ∧
    refusal (exec (.transceive 0x20000000 0x20000100 0 none) (ready (task .idle []) [])) = some .zeroLength ∧
    refusal (exec (.transceive 0x20000002 0x20000100 1 none) (ready (task .idle []) [])) = some .misalignedBuffer ∧
    refusal (exec (.transceive 0x20000000 0x20000101 1 none) (ready (task .idle []) [])) = some .misalignedBuffer ∧
    refusal (exec (.transceive 0xFFFFFFFC 0x20000100 2 none) (ready (task .idle []) [])) = some .regionPastTop ∧
    refusal (exec (.transceive 0x20000000 0x20000004 2 none) (ready (task .idle []) [])) = some .regionsOverlap ∧
    refusal (exec (.transceive 0x20000000 0x20000000 1 none) (ready (task .idle []) [])) = some .regionsOverlap ∧
    refusal (exec (.transceive 0x20000FFC 0x20000100 2 none) (ready (task .idle []) [])) = some .regionNotMapped ∧
    refusal (exec .init (running [])) = some (.requesterBusy 0) := by decide +kernel
/-- V-T12. -/
theorem test_transceive_ends_at_top :
    after (exec (.transceive 0xFFFFFFF8 0x20000100 2 none) (ready (task .idle []) [])) (·.phase 0) = some .t1 := by
  decide +kernel
/-- V-G1, V-G8. -/
theorem test_register_issue :
    after (exec (.gpioRegister 0 4 .fall ⟨1⟩) (one (task .idle []) [])) (fun t => (t.latch 0, t.phase 0)) =
      some (pinFour, .g1) ∧
    after (exec (.gpioRegister 3 0 .rise ⟨1⟩) (one (task .idle []) [])) (·.trace) =
      some [.rsp 0 .errBank 3 none] := by decide +kernel
/-- V-G9, V-G11. -/
theorem test_unregister :
    after (exec (.gpioUnregister 0 4) (bankZero (fun k => { hooked k with imr := 0x11 }) []))
      (fun t => ((t.bank 0).imr, (t.bank 0).hook[4])) = some (1, some ⟨1⟩) ∧
    after (exec (.gpioUnregister 3 7) (one (task .idle []) [])) (·.trace) =
      some [.rsp 0 .errBank 3 none] := by decide +kernel
/-- V-M3, V-M10: the four control words at `TPR`, and a reserved one. -/
theorem test_control_words :
    after (exec (.cwS0 true 0x0055) (running [])) (fun t => (t.trace, t.tpr, t.tcr, t.infl)) =
      some ([.spiTx 0x01000055], 0x20000008, 0, 2) ∧
    after (exec (.cwS1 true 0x002C) (running [])) (·.trace) = some [.spiTx 0x0101002C] ∧
    after (exec (.cwS2 false 0xABCD) (running [])) (·.trace) = some [.spiTx 0x0003ABCD] ∧
    after (exec (.cwS3 true 0xBEEF) (running [])) (·.trace) = some [.spiTx 0x0107BEEF] ∧
    after (step { running [.dmaTx] with mem := [(0x20000006, 2)] }) (·.trace) = some [.spiTx 0x00020000] := by
  decide +kernel
/-- V-M6, V-M7. -/
theorem test_dma_rx_bytes :
    after (step { running [.dmaRx 0xDEADBEEF] with tcr := 0, infl := 2 }) (fun t => (t.mem, t.rpr, t.rcr, t.done)) =
      some ([(0x20000100, 0xEF), (0x20000101, 0xBE), (0x20000102, 0xAD), (0x20000103, 0xDE)], 0x20000104, 1, false) ∧
    after (step { running [.dmaRx 0] with tcr := 0, rcr := 1 }) (fun t => (t.mem, t.done)) = some ([], true) := by
  decide +kernel
/-- V-T20 to V-T33. -/
theorem test_transceive_micro_steps :
    after (step { held .t1 [.task 0] with lock := none, waitq := [0] }) (fun t => (t.lock, t.waitq, t.phase 0)) =
      some (some 0, [], .t2) ∧
    after (step (held .t2 [.task 0])) (fun t => (t.cb, t.phase 0)) = some (some ⟨7⟩, .t3a) ∧
    after (step (held .t3a [.task 0])) (fun t => (t.tpr, t.tcr, t.rpr, t.rcr, t.phase 0)) =
      some (0x20000000, 2, 0x20000100, 2, .t3b) ∧
    after (step (held .t3b [.task 0])) (fun t => (t.nvicSpi, t.phase 0)) = some (true, .t3c) ∧
    after (step (held .t3c [.task 0])) (fun t => (t.en, t.phase 0)) = some (true, .t4) ∧
    after (step (held .t4 [.task 0])) (·.phase 0) = some .t4 ∧
    after (step { held .t4 [.task 0] with sig := true }) (fun t => (t.sig, t.phase 0)) = some (false, .t5) ∧
    after (step { held .t4 [.task 0] with sig := true, spiH := .d1 }) (·.phase 0) = some .t4 ∧
    after (step (held .t5 [.task 0])) (fun t => (t.lock, t.phase 0, t.trace)) =
      some (none, .idle, [.rsp 0 .ok 0 none]) := by decide +kernel
/-- V-T23: with `LOCK_ORDER = fifo` only the longest-waiting requester acquires. -/
theorem test_lock_order_fifo :
    let s := { ready (task .idle []) [] with
      reqs := [task .idle [], task .t1 [], task .t1 []], waitq := [1, 2]
      cfg := { Config.resetParams with lockOrder := .fifo } }
    s.enabled (.task 1) = true ∧ s.enabled (.task 2) = false ∧
      State.enabled { s with cfg := Config.resetParams } (.task 2) = true := by decide +kernel
/-- V-H1 to V-H10. -/
theorem test_spi_handler :
    after (step { running [.spi] with done := true }) (·.spiH) = some .a ∧
    after (step { running [.spi] with done := true, nvicSpi := false }) (·.spiH) = some .idle ∧
    after (step { handling .a [.spi] with done := true }) (fun t => (t.done, t.spiH)) = some (false, .b) ∧
    after (step { handling .b [.spi] with cb := some ⟨7⟩ }) (fun t => (t.trace, t.cb, t.spiH)) =
      some ([.cbInvoke ⟨7⟩], none, .c) ∧
    after (step (handling .b [.spi])) (fun t => (t.trace, t.spiH)) = some ([], .c) ∧
    after (step (handling .c [.spi])) (fun t => (t.sig, t.spiH)) = some (true, .d1) ∧
    after (step (handling .d1 [.spi])) (fun t => (t.en, t.spiH)) = some (false, .d2) ∧
    after (step (handling .d2 [.spi])) (fun t => (t.nvicSpi, t.spiH)) = some (false, .idle) := by decide +kernel
/-- V-G2, V-G4, V-G5, V-G6. -/
theorem test_registration_micro_steps :
    let s := fun ph imr =>
      { bankZero (fun k => { k with imr := imr }) [.task 0] with reqs := [task ph [] pinFour] }
    after (step (s .g1 0x11)) (fun t => ((t.bank 0).imr, t.phase 0)) = some (1, .g2) ∧
    after (step (s .g2 1)) (fun t => ((t.bank 0).mode[4], (t.bank 0).isr, t.phase 0)) = some (some .fall, 0, .g3) ∧
    after (step (s .g3 1)) (fun t => ((t.bank 0).hook[4], t.phase 0)) = some (some ⟨1⟩, .g4) ∧
    after (step (s .g4 1)) (fun t => ((t.bank 0).imr, t.phase 0, t.trace)) =
      some (0x11, .idle, [.rsp 0 .ok 0 none]) := by decide +kernel
/-- V-G13 to V-G28: the status bit after each mode, old level and new level. -/
theorem test_pin_event_modes :
    (([.rise, .fall, .high, .low] : List TrigMode).map fun m => [(false, false), (false, true), (true, false), (true, true)].map
      fun (old, new) => triggers (some m) old new true) =
      [[false, true, false, false], [false, false, true, false], [false, true, false, true], [true, false, true, false]] := by
  decide
/-- Step 12 of program P4. -/
theorem test_pin_event :
    after (step (bankZero (fun k => { k with mode := k.mode.set 4 (some .fall), level := 0x10 }) [.pin 0 4 false false]))
      (fun t => ((t.bank 0).isr, (t.bank 0).level)) = some (0x10, 0) := by decide +kernel
/-- V-G30 to V-G33, V-G37. -/
theorem test_dispatcher :
    after (step (bankZero (fun k => { k with isr := 0x10, imr := 0x10 }) [.gpio 0])) (fun t => (t.bank 0).disp) =
      some .entered ∧
    after (step (bankZero (fun k => { k with isr := 0x100, imr := 0x12 }) [.gpio 0])) (fun t => (t.bank 0).disp) =
      some .idle ∧
    after (step (bankZero (fun k => { k with isr := 0x10, imr := 0x10, nvic := false }) [.gpio 0]))
      (fun t => (t.bank 0).disp) = some .idle ∧
    after (step (bankZero (fun k => { k with isr := 0x110, imr := 0x11, disp := .entered }) [.gpio 0]))
      (fun t => ((t.bank 0).disp, (t.bank 0).isr)) = some (.scan 0x10 0, 0) ∧
    after (step (bankZero (fun k => { hooked k with disp := .scan 0x12 4 }) [.gpio 0]))
      (fun t => ((t.bank 0).disp, t.trace)) = some (.scan 0x12 5, [.hookInvoke 0 4 ⟨1⟩]) ∧
    after (step (bankZero (fun k => { hooked k with disp := .scan 0x80000001 31 }) [.gpio 0]))
      (fun t => ((t.bank 0).disp, t.trace)) = some (.idle, []) := by decide +kernel
/-- A requester's own store and load, and an access outside `Mapped`. -/
theorem test_own_access :
    after (step (one (task .idle [.store .word 0x20000000 0x0101002C]) [.task 0])) (·.mem) =
      some [(0x20000000, 0x2C), (0x20000002, 0x01), (0x20000003, 0x01)] ∧
    after (step { one (task .idle [.load .half 0x20000002]) [.task 0] with mem := [(0x20000002, 0x34), (0x20000003, 0x12)] })
      (fun t => t.reqs.map (·.lastRead)) = some [0x1234] ∧
    fault (step (one (task .idle [.load .byte 0x1FFFFFFF]) [.task 0])) = some (.unmappedAccess 0 0x1FFFFFFF) := by
  decide +kernel

/-! ### Witnesses: the hypotheses of each statement are met -/

/-- Requester 0's next move is its own and it has `items` to take. -/
def offering (items : List Item) : State := ready (task .idle items) [.task 0]

theorem witness_ControlWordHasOneReading :
    decode (.controlWord 0x0107FFFF) = .instr (.cwS3 true 0xFFFF) := by decide
theorem witness_RouteTable :
    (0#8).toNat ≤ 3 ∧ (3#8).toNat ≤ 3 ∧ 3 < (4#8).toNat ∧ 3 < (255#8).toNat := by decide
theorem witness_ModeEncoding : (fullPort 3).op = 3 := by decide
theorem witness_ReservedOperationsRefused :
    let s := fun op => offering [.command (fullPort op)]
    (∀ op : BitVec 4, (s op).moves = [.task 0] ∧ (s op).handlerActive = false) ∧
    (s 0).reqs[0]? = some (task .idle [.command (fullPort 0)]) ∧ (fullPort 0).op = 0 ∧
    (s 6).reqs[0]? = some (task .idle [.command (fullPort 6)]) ∧ 6 ≤ (fullPort 6).op.toNat ∧
    (s 15).reqs[0]? = some (task .idle [.command (fullPort 15)]) ∧ 6 ≤ (fullPort 15).op.toNat := by decide +kernel

/-- The requester that presents a command is IDLE and no handler is active. -/
abbrev Acts (s : State) (q : Requester) : Prop :=
  s.reqs[s.cmdReq]? = some q ∧ q.ph = .idle ∧ s.handlerActive = false
/-- Requester 0, in phase `ph`, takes the next move and no handler is active. -/
abbrev Micro (s : State) (q : Requester) (ph : Phase) : Prop :=
  s.moves = [.task 0] ∧ s.handlerActive = false ∧ s.reqs[0]? = some q ∧ q.ph = ph

/-- The state before INIT, the state after it, and the selects 0, 3, 4 and 255. -/
theorem witness_EncodeResult :
    Acts (one (task .idle []) []) (task .idle []) ∧ Acts (ready (task .idle []) []) (task .idle []) ∧
      0#8 = 0 ∧ 3#8 = 3 ∧ 3 < (4#8).toNat ∧ 3 < (255#8).toNat ∧ (fullPort 1).op = 1 := by decide +kernel
theorem witness_EncodeDependsOnOperandsAlone :
    Acts (one (task .idle []) []) (task .idle []) ∧ Acts (ready (task .idle []) []) (task .idle []) ∧
      one (task .idle []) [] ≠ ready (task .idle []) [] := by decide +kernel
theorem witness_InitResult :
    (fullPort 5).op = 5 ∧ Acts (one (task .idle []) []) (task .idle []) ∧ Acts (ready (task .idle []) []) (task .idle []) ∧
      (ready (task .idle []) []).ready = true ∧ (ready (task .idle []) []).ieDone = true ∧
      ∀ b : BankId, ((ready (task .idle []) []).bank b).nvic = true := by decide +kernel
/-- One request for each clause, at the boundary lengths 65, 64, 0 and at both ends of the address space. -/
theorem witness_TransceiveIssue :
    let s := ready (task .idle []) []
    let mapped := fun (tx rx n : Nat) =>
      allMapped s.cfg tx (4 * n) = true ∧ allMapped s.cfg rx (4 * n) = true
    Acts s (task .idle []) ∧ Acts (one (task .idle []) []) (task .idle []) ∧ s.cfg.bufCap < 65 ∧ 64 ≤ s.cfg.bufCap ∧ (one (task .idle []) []).ready = false ∧ s.ready = true ∧
    (0#32).toNat ≤ s.cfg.bufCap ∧ 0x20000002 % 4 ≠ 0 ∧ 0x20000000 % 4 = 0 ∧
    ¬ 0xFFFFFFFC + 4 * 2 ≤ 2 ^ 32 ∧ 0xFFFFFFF8 + 4 * 2 ≤ 2 ^ 32 ∧
    ¬ (0x20000000 + 4 * 2 ≤ 0x20000004 ∨ 0x20000004 + 4 * 2 ≤ 0x20000000) ∧
    0x20000000 + 4 * 64 ≤ 0x20000100 ∧ mapped 0x20000000 0x20000100 64 ∧ mapped 0xFFFFFFF8 0x20000100 2 ∧
    ¬ mapped 0x20000FFC 0x20000100 2 := by decide +kernel
theorem witness_GpioRegisterIssue_and_GpioUnregisterResult :
    Acts (one (task .idle []) []) (task .idle []) ∧ (0#2).toNat = (0 : BankId).val ∧
      (2#2).toNat = (2 : BankId).val ∧ 3#2 = 3 := by decide +kernel
theorem witness_ControlWordMoves :
    (running []).en = true ∧ (running []).tcr ≠ 0 ∧ (held .t3c []).en = false ∧
      (moved .t4 []).tcr = 0 := by decide +kernel
theorem witness_CommandBusyOrWaiting :
    (∀ l td, Instr.init ≠ .cwS0 l td ∧ Instr.init ≠ .cwS1 l td ∧ Instr.init ≠ .cwS2 l td ∧ Instr.init ≠ .cwS3 l td) ∧
    (running []).reqs[(running []).cmdReq]? = some (task .t4 [] twoWords) ∧ Phase.t4 ≠ .idle ∧
    (bankZero (fun k => { k with disp := .entered }) []).reqs[0]? = some (task .idle []) ∧
    ((bankZero (fun k => { k with disp := .entered }) []).bank 0).disp ≠ .idle :=
  ⟨fun _ _ => by simp, by decide +kernel⟩
theorem witness_ViolationChangesNothing :
    (∃ t, exec (.encode false 4 0) (one (task .idle []) []) = .next t) ∧
    after (exec (.encode false 4 0) (one (task .idle []) [])) (·.trace) =
      some ((one (task .idle []) []).trace ++ [.rsp 0 .errCs 4 none]) :=
  ⟨next_of_goesOn (by decide +kernel), by decide +kernel⟩
theorem witness_CommandFrame :
    (∃ t, exec .init (one (task .idle []) []) = .next t) ∧
    (∃ t, exec (.encode true 1 0x2C) (one (task .idle []) []) = .next t) ∧
    (∃ t, exec (.gpioRegister 2 31 .low ⟨2⟩) (one (task .idle []) []) = .next t) ∧
    (∃ t, exec (.gpioUnregister 2 31) (one (task .idle []) []) = .next t) :=
  ⟨next_of_goesOn (by decide +kernel), next_of_goesOn (by decide +kernel), next_of_goesOn (by decide +kernel),
    next_of_goesOn (by decide +kernel)⟩

theorem witness_StepRunsDecodedCommand :
    let s := offering [.command (fullPort 3)]
    s.moves = [.task 0] ∧ s.handlerActive = false ∧ s.reqs[0]? = some (task .idle [.command (fullPort 3)]) ∧
      decode (.command (fullPort 3)) = .instr (.gpioRegister 2 31 .fall ⟨9⟩) := by decide +kernel
theorem witness_StepRunsDecodedControlWord :
    let s := { running [.dmaTx] with mem := [(0x20000004, 0x55), (0x20000007, 0x01)] }
    s.moves = [.dmaTx] ∧ s.en = true ∧ s.tcr ≠ 0 ∧
      decode (.controlWord (s.mem.readWord s.tpr)) = .instr (.cwS0 true 0x0055) := by decide +kernel
theorem witness_DmaTxMovesEveryWord :
    (running [.dmaTx]).moves = [.dmaTx] ∧ (running [.dmaTx]).en = true ∧ (running [.dmaTx]).tcr ≠ 0 ∧
      (held .t3c [.dmaTx]).en = false ∧ (moved .t4 [.dmaTx]).tcr = 0 := by decide +kernel
theorem witness_DmaRxStoresDrawnWord :
    (running [.dmaRx 7]).moves = [.dmaRx 7] ∧ (running [.dmaRx 7]).en = true ∧ (running [.dmaRx 7]).rcr ≠ 0 ∧
      0 < (running [.dmaRx 7]).infl ∧ (moved .t4 [.dmaRx 7]).infl = 0 := by decide +kernel
theorem witness_WordsAreLittleEndian : Memory.wf [(0x20000000, 0x2C), (0x20000002, 0x01)] := by decide
theorem witness_RequesterOwnAccess :
    let s := offering [.load .word 0x20000FFC]
    s.moves = [.task 0] ∧ s.handlerActive = false ∧ s.reqs[0]? = some (task .idle [.load .word 0x20000FFC]) ∧
      (∀ k < Width.word.bytes, isMapped s.cfg (0x20000FFC#32 + BitVec.ofNat 32 k).toNat = true) ∧
      (offering [.store .half 0x20000FFE 0xBEEF]).reqs[0]? = some (task .idle [.store .half 0x20000FFE 0xBEEF]) ∧
      (∀ k < Width.half.bytes, isMapped s.cfg (0x20000FFE#32 + BitVec.ofNat 32 k).toNat = true) ∧
      ¬ (∀ k < Width.half.bytes, isMapped s.cfg (0x20000FFF#32 + BitVec.ofNat 32 k).toNat = true) := by decide +kernel

theorem witness_AcquireLock :
    let s := { held .t1 [.task 0] with lock := none, waitq := [0] }
    Micro s (task .t1 [] twoWords) .t1 ∧ s.lock = none ∧ s.cfg.lockOrder = .any ∧ s.waitq.head? = some 0 ∧
      Micro (held .t1 [.task 0]) (task .t1 [] twoWords) .t1 ∧ (held .t1 [.task 0]).lock ≠ none := by decide +kernel
theorem witness_ProgramAndStart :
    ∀ ph ∈ ([.t2, .t3a, .t3b, .t3c] : List Phase), Micro (held ph [.task 0]) (task ph [] twoWords) ph := by
  decide +kernel
theorem witness_WaitAndRelease :
    Micro (held .t4 [.task 0]) (task .t4 [] twoWords) .t4 ∧ (held .t4 [.task 0]).sig = false ∧
      Micro { held .t4 [.task 0] with sig := true } (task .t4 [] twoWords) .t4 ∧
      Micro (held .t5 [.task 0]) (task .t5 [] twoWords) .t5 := by decide +kernel
theorem witness_RegistrationSteps :
    ∀ ph ∈ ([.g1, .g2, .g3, .g4] : List Phase), Micro (held ph [.task 0]) (task ph [] twoWords) ph := by decide +kernel
theorem witness_HandlersExcludeTasks :
    (handling .d1 [.task 0]).moves = [.task 0] ∧ (handling .d1 [.task 0]).spiH ≠ .idle := by decide +kernel
theorem witness_SpiHandlerEntry :
    let s := { running [.spi] with done := true }
    s.moves = [.spi] ∧ s.spiH = .idle ∧ s.done = true ∧ s.ieDone = true ∧ s.nvicSpi = true ∧ s.cfg.irqNest = .any ∧
      (running [.spi]).done = false := by decide +kernel
theorem witness_SpiHandlerSteps :
    (([.a, .b, .c, .d1, .d2] : List SpiPhase).all fun p =>
      decide ((handling p [.spi]).moves = [.spi] ∧ (handling p [.spi]).spiH = p)) = true ∧
    (handling .b [.spi]).cb = none ∧
    State.cb { handling .b [.spi] with cb := some ⟨7⟩ } = some ⟨7⟩ := by decide +kernel
theorem witness_SpiHandlerRunsToEnd :
    let s := { running (List.replicate 6 .spi) with done := true }
    s.moves = List.replicate 6 .spi ++ [] ∧ s.spiH = .idle ∧ s.done = true ∧ s.ieDone = true ∧ s.nvicSpi = true ∧
      (s.cfg.irqNest = .any ∨ ∀ b : BankId, (s.bank b).disp = .idle) := by decide +kernel
theorem witness_DispatcherEntry :
    let s := bankZero (fun k => { hooked k with isr := 0x10, imr := 0x10 }) [.gpio 0]
    s.moves = [.gpio 0] ∧ (s.bank 0).disp = .idle ∧ (s.bank 0).isr &&& (s.bank 0).imr ≠ 0 ∧ (s.bank 0).nvic = true ∧
      s.cfg.irqNest = .any ∧ (s.bank 1).isr &&& (s.bank 1).imr = 0 := by decide +kernel
theorem witness_DispatcherReadsOnce :
    let s := bankZero (fun k => { hooked k with isr := 0x110, imr := 0x11, disp := .entered }) [.gpio 0]
    s.moves = [.gpio 0] ∧ (s.bank 0).disp = .entered := by decide +kernel
theorem witness_DispatcherScanStep :
    let s := fun i => bankZero (fun k => { hooked k with disp := .scan 0x12 i }) [.gpio 0]
    (s 1).moves = [.gpio 0] ∧ ((s 1).bank 0).disp = .scan 0x12 1 ∧ ((s 31).bank 0).disp = .scan 0x12 31 := by
  decide +kernel
theorem witness_DispatchInvokesExactlyPending :
    let s := bankZero (fun k => { hooked k with isr := 0x12, imr := 0x12 }) (List.replicate 34 (.gpio 0))
    s.moves = List.replicate 34 (.gpio 0) ++ [] ∧ (s.bank 0).disp = .idle ∧ (s.bank 0).isr &&& (s.bank 0).imr ≠ 0 ∧
      (s.bank 0).nvic = true ∧ s.cfg.irqNest = .any := by decide +kernel
theorem witness_PinEventCaptures :
    (one (task .idle []) [.pin 2 31 true false]).moves = [.pin 2 31 true false] := by decide +kernel
theorem witness_RegistrationCompletes :
    let p := { Port.ofOp 3 with bank := 2, pin := 31, mode := 3, hook := ⟨2⟩ }
    let s := ready (task .idle [.command p]) (List.replicate 5 (.task 0))
    s.moves = List.replicate 5 (.task 0) ++ [] ∧ s.handlerActive = false ∧
      s.reqs[0]? = some (task .idle [.command p]) ∧
      decode (.command p) = .instr (.gpioRegister (BitVec.ofNat 2 (2 : BankId)) (BitVec.ofNat 5 (31 : PinId)) .low ⟨2⟩) := by
  decide +kernel
/-- Two words, both transmitted before the first is received. -/
def twoAhead : List Move := [.dmaTx, .dmaTx, .dmaRx 0x000000A5, .dmaRx 0xFFFFFFFF]
theorem twoAhead_schedule : DmaSchedule twoAhead [0x000000A5, 0xFFFFFFFF] :=
  ⟨by simp [twoAhead], rfl, rfl, fun k => by rcases k with _ | _ | _ | _ | k <;> simp [twoAhead, drawnWord, List.filterMap_cons]⟩
/-- That interleaving, the receive region ending at the top of the address space. -/
theorem witness_DmaMovesWholeBuffers :
    let draws : List Word := [0x000000A5, 0xFFFFFFFF]
    let s := { running twoAhead with tpr := 0x20000000, tcr := 2, rpr := 0xFFFFFFF8, infl := 0 }
    Memory.wf s.mem ∧ s.en = true ∧ s.infl = 0 ∧ s.tcr = s.rcr ∧ draws.length = s.tcr.toNat ∧ s.tcr ≠ 0 ∧
      s.tpr.toNat + 4 * draws.length ≤ 2 ^ 32 ∧ s.rpr.toNat + 4 * draws.length ≤ 2 ^ 32 ∧
      s.tpr.toNat + 4 * draws.length ≤ s.rpr.toNat ∧ s.moves = twoAhead ++ [] := by decide +kernel

/-- A step that stores the drawn word. -/
theorem witness_step_running :
    Memory.wf (running [.dmaRx 7]).mem ∧ ∃ t, step (running [.dmaRx 7]) = .next t :=
  ⟨by decide +kernel, next_of_goesOn (by decide +kernel)⟩

/-- With one requester, every other index reads as IDLE. -/
theorem phase_of_other {s : State} {q : Requester} (h : s.reqs = [q]) (r : Nat) : s.phase (r + 1) = .idle := by
  simp [State.phase, h]

theorem witness_MutualExclusion : MutualExclusion (running [.dmaRx 7]) := by
  intro r
  cases r with
  | zero => exact ⟨fun _ => rfl, fun _ => rfl⟩
  | succ r => rw [phase_of_other rfl]; simp [Phase.inFlight, running, held]
theorem witness_MutualExclusionKept : ∃ t, step (running [.dmaRx 7]) = .next t :=
  next_of_goesOn (by decide +kernel)
theorem witness_WaitersListed : WaitersListed { held .t1 [.task 0] with lock := none, waitq := [0] } := by
  refine ⟨by decide +kernel, fun r => ?_⟩
  cases r with
  | zero => exact ⟨fun _ => rfl, fun _ => by simp⟩
  | succ r => rw [phase_of_other rfl]; simp
theorem witness_WaitQueueKept :
    ∃ t, step { held .t1 [.task 0] with lock := none, waitq := [0] } = .next t :=
  next_of_goesOn (by decide +kernel)
/-- A dispatcher that scans a snapshot with one bit set. -/
def scanning : State := bankZero (fun k => { hooked k with imr := 2, disp := .scan 2 1 }) [.gpio 0]
theorem witness_HooksBehindMask : HooksBehindMask scanning := by
  refine ⟨by decide +kernel, fun r hr => ?_, fun b snapshot i hd => ?_⟩
  · cases r with
    | zero => cases hr
    | succ r => rw [phase_of_other rfl] at hr; cases hr
  · have h0 : (scanning.bank 0).disp = .scan 2 1 := by decide +kernel
    have h1 : (scanning.bank 1).disp = .idle ∧ (scanning.bank 2).disp = .idle := by decide +kernel
    match b with
    | 0 => rw [h0] at hd; cases hd; decide +kernel
    | 1 => rw [h1.1] at hd; cases hd
    | 2 => rw [h1.2] at hd; cases hd
theorem witness_HooksBehindMaskKept : ∃ t, step scanning = .next t :=
  next_of_goesOn (by decide +kernel)

theorem twoWords_accepted : Latch.accepted twoWords Config.resetParams := by
  unfold Latch.accepted; decide +kernel
/-- The transfer in flight, one word transmitted and none received, meets the whole invariant. -/
theorem witness_SystemInv : SystemInv (running [.dmaRx 7]) where
  parameters := (by decide : Config.resetParams.wellFormed = true)
  memory := (by decide : Memory.wf [])
  exclusion := witness_MutualExclusion
  waiters := by
    refine ⟨List.nodup_nil, fun r => ?_⟩
    cases r with
    | zero => exact ⟨fun h => (List.not_mem_nil h).elim, fun h => by cases h⟩
    | succ r => rw [phase_of_other rfl]; simp [running, held, ready, one, State.reset, State.launch]
  requests := by
    intro r hr
    cases r with
    | zero => exact ⟨rfl, twoWords_accepted⟩
    | succ r => rw [phase_of_other rfl] at hr; cases hr
  enables := ⟨rfl, (by decide +kernel : ∀ b : BankId, ((running [.dmaRx 7]).bank b).nvic = (running [.dmaRx 7]).ready)⟩
  engine := ⟨rfl, rfl, rfl, rfl, by decide +kernel, by unfold DescriptorsAt; decide +kernel⟩
  hooks := by
    refine ⟨(by decide +kernel :
      ∀ (b : BankId) (p : PinId), ((running [.dmaRx 7]).bank b).imr.getLsbD p = true → ((running [.dmaRx 7]).bank b).hook[p] ≠ none),
      fun r hr => ?_, fun b snapshot i hd => ?_⟩
    · cases r with
      | zero => cases hr
      | succ r => rw [phase_of_other rfl] at hr; cases hr
    · rw [(by decide +kernel : ∀ b : BankId, ((running [.dmaRx 7]).bank b).disp = .idle) b] at hd; cases hd
theorem witness_SystemInvariantKept : ∃ t, step (running [.dmaRx 7]) = .next t :=
  next_of_goesOn (by decide +kernel)
theorem witness_LaunchSatisfiesInvariant :
    Config.resetParams.wellFormed = true ∧ Memory.wf [(0x20000000, 0x2C)] := by decide
/-- The same state has a blocked requester and both DMA steps enabled. -/
theorem witness_BlockedRequesterIsNeverAlone_and_DmaStaysInBuffers :
    (running [.dmaRx 7]).phase 0 = .t4 ∧ (running [.dmaRx 7]).sig = false ∧ (running [.dmaRx 7]).dmaTxEnabled = true ∧
      (running [.dmaRx 7]).dmaRxEnabled = true := by decide +kernel
/-- The requester about to respond, and its response. -/
theorem witness_ResponseAfterLastWord :
    SystemInv (moved .t5 [.task 0]) ∧ (moved .t5 [.task 0]).phase 0 = .t5 ∧
      ∃ t, step (moved .t5 [.task 0]) = .next t ∧ t.trace = (moved .t5 [.task 0]).trace ++ [.rsp 0 .ok 0 none] := by
  refine ⟨⟨by decide, by decide, ?_, ?_, ?_, ?_, ?_, ?_⟩, rfl,
    next_of_after (f := (·.trace)) (by decide +kernel)⟩
  · intro r
    cases r with
    | zero => exact ⟨fun _ => rfl, fun _ => rfl⟩
    | succ r => rw [phase_of_other rfl]; simp [Phase.inFlight, moved, held]
  · refine ⟨List.nodup_nil, fun r => ?_⟩
    cases r with
    | zero => exact ⟨fun h => (List.not_mem_nil h).elim, fun h => by cases h⟩
    | succ r => rw [phase_of_other rfl]; simp [moved, held, ready, one, State.reset, State.launch]
  · intro r hr
    cases r with
    | zero => exact ⟨rfl, twoWords_accepted⟩
    | succ r => rw [phase_of_other rfl] at hr; cases hr
  · exact ⟨rfl, by decide +kernel⟩
  · exact ⟨⟨rfl, rfl, rfl, rfl, rfl⟩, rfl, rfl, rfl, rfl, rfl, by unfold DescriptorsAt; decide +kernel⟩
  · refine ⟨by decide +kernel, fun r hr => ?_, fun b snapshot i hd => ?_⟩
    · cases r with
      | zero => cases hr
      | succ r => rw [phase_of_other rfl] at hr; cases hr
    · rw [(by decide +kernel : ∀ b : BankId, ((moved .t5 [.task 0]).bank b).disp = .idle) b] at hd; cases hd

/-- `TRANSCEIVE 0x20000000, 0xFFFFFFFC, 1, h7`, the receive region ending at the top of the address space. -/
def oneWordPort : Port := { Port.ofOp 2 with tx := 0x20000000, rx := 0xFFFFFFFC, n := 1, cbValid := 1, cb := ⟨7⟩ }
/-- That request offered after INIT, with the whole schedule of its transfer. -/
def oneWordRun : State :=
  ready (task .idle [.command oneWordPort])
    (List.replicate 6 (.task 0) ++ [.dmaTx, .dmaRx 0xA5] ++ List.replicate 6 .spi ++ List.replicate 2 (.task 0))
theorem witness_TransferCompletes_invariant : SystemInv oneWordRun where
  parameters := (by decide : Config.resetParams.wellFormed = true)
  memory := (by decide : Memory.wf [])
  exclusion := by
    intro r
    cases r with
    | zero => exact ⟨fun h => (by cases h), fun h => (by cases h)⟩
    | succ r => rw [phase_of_other rfl]; simp [Phase.inFlight, oneWordRun, ready, one, State.reset, State.launch]
  waiters := by
    refine ⟨List.nodup_nil, fun r => ?_⟩
    cases r with
    | zero => exact ⟨fun h => (List.not_mem_nil h).elim, fun h => by cases h⟩
    | succ r => rw [phase_of_other rfl]; simp [oneWordRun, ready, one, State.reset, State.launch]
  requests := by
    intro r hr
    cases r with
    | zero => cases hr
    | succ r => rw [phase_of_other rfl] at hr; cases hr
  enables := ⟨rfl, (by decide +kernel : ∀ b : BankId, (oneWordRun.bank b).nvic = oneWordRun.ready)⟩
  engine := ⟨⟨rfl, rfl, rfl, rfl, rfl⟩, rfl, rfl⟩
  hooks := by
    refine ⟨(by decide +kernel :
      ∀ (b : BankId) (p : PinId), (oneWordRun.bank b).imr.getLsbD p = true → (oneWordRun.bank b).hook[p] ≠ none),
      fun r hr => ?_, fun b snapshot i hd => ?_⟩
    · cases r with
      | zero => cases hr
      | succ r => rw [phase_of_other rfl] at hr; cases hr
    · rw [(by decide +kernel : ∀ b : BankId, (oneWordRun.bank b).disp = .idle) b] at hd; cases hd
theorem witness_TransferCompletes :
    oneWordRun.handlerActive = false ∧ oneWordRun.ready = true ∧ oneWordRun.lock = none ∧ oneWordRun.waitq = [] ∧
      oneWordRun.reqs[0]? = some (task .idle [.command oneWordPort]) ∧
      decode (.command oneWordPort) = .instr (.transceive 0x20000000 0xFFFFFFFC 1 (some ⟨7⟩)) ∧
      (0x20000000#32).toNat % 4 = 0 ∧ (0xFFFFFFFC#32).toNat % 4 = 0 ∧ (0xFFFFFFFC#32).toNat + 4 * 1 ≤ 2 ^ 32 ∧
      (∀ k < 4, isMapped oneWordRun.cfg (0x20000000 + k) = true ∧ isMapped oneWordRun.cfg (0xFFFFFFFC + k) = true) ∧
      oneWordRun.moves =
        List.replicate 6 (.task 0) ++ [.dmaTx, .dmaRx 0xA5] ++ List.replicate 6 .spi ++ List.replicate 2 (.task 0) ++ [] := by decide +kernel
theorem witness_TransferCompletes_schedule : DmaSchedule [.dmaTx, .dmaRx 0xA5] [0xA5] :=
  ⟨by simp, rfl, rfl, fun k => by rcases k with _ | _ | k <;> simp [drawnWord, List.filterMap_cons]⟩

theorem witness_OnlyCommandsAndPinsAfterReset :
    let s := State.launch Config.resetParams [] (Vector.replicate 3 0) [[.command (fullPort 5)]]
    s.enabled (.task 0) = true ∧ s.enabled (.pin 0 31 true true) = true := by decide +kernel
/-- Each element changes in some step. -/
theorem witness_SpiElementsKeepTheirWriters :
    after (step { running [.dmaRx 7] with tcr := 0, rcr := 1 }) (fun t => (t.done, t.infl, t.rcr)) = some (true, 0, 0) ∧
    after (step { handling .a [.spi] with done := true }) (fun t => (t.done, t.spiH)) = some (false, .b) ∧
    after (step (handling .c [.spi])) (·.sig) = some true ∧
    after (step { held .t4 [.task 0] with sig := true }) (·.sig) = some false ∧
    after (step (handling .d1 [.spi])) (·.en) = some false ∧ after (step (held .t3c [.task 0])) (·.en) = some true ∧
    after (step (handling .d2 [.spi])) (·.nvicSpi) = some false ∧
    after (step (held .t3b [.task 0])) (·.nvicSpi) = some true ∧
    after (step { handling .b [.spi] with cb := some ⟨7⟩ }) (·.cb) = some none ∧
    after (step (held .t2 [.task 0])) (·.cb) = some (some ⟨7⟩) ∧
    after (step { held .t1 [.task 0] with lock := none, waitq := [0] }) (fun t => (t.lock, t.waitq)) = some (some 0, []) ∧
    after (step (held .t5 [.task 0])) (·.lock) = some none ∧
    after (step (held .t3a [.task 0])) (fun t => (t.tpr, t.rpr)) = some (0x20000000, 0x20000100) ∧
    after (step (running [.dmaTx])) (fun t => (t.tpr, t.tcr)) = some (0x20000008, 0) ∧
    after (step (one (task .idle [.command (fullPort 5)]) [.task 0])) (fun t => (t.ready, t.ieDone)) = some (true, true) ∧
    after (step (offering [.command (fullPort 2)])) (·.waitq) = some [0] := by decide +kernel
theorem witness_GpioElementsKeepTheirWriters :
    let s := fun ph => { bankZero id [.task 0] with reqs := [task ph [] pinFour] }
    after (step (s .g3)) (fun t => (t.bank 0).hook[4]) = some (some ⟨1⟩) ∧
    after (step (s .g2)) (fun t => (t.bank 0).mode[4]) = some (some .fall) ∧
    after (step (s .g4)) (fun t => (t.bank 0).imr) = some 0x10 ∧
    after (step (bankZero (fun k => { k with isr := 4, disp := .entered }) [.gpio 0])) (fun t => (t.bank 0).isr) = some 0 ∧
    after (step (bankZero id [.pin 0 31 true true])) (fun t => ((t.bank 0).isr, (t.bank 0).level)) =
      some (0x80000000, 0x80000000) ∧
    after (step (one (task .idle [.command (fullPort 5)]) [.task 0])) (fun t => (t.bank 0).nvic) = some true ∧
    after (step { bankZero (fun k => { k with imr := 0x11 }) [.task 0] with
      reqs := [task .idle [.command { Port.ofOp 4 with pin := 4 }]] }) (fun t => (t.bank 0).imr) = some 1 := by
  decide +kernel
theorem witness_MemoryKeepsItsWriters :
    Memory.wf (running [.dmaRx 7]).mem ∧
    after (step (running [.dmaRx 7])) (fun t => Memory.readByte t.mem 0x20000100) = some 7 ∧
    after (step (offering [.store .byte 0x20000FFF 9])) (fun t => Memory.readByte t.mem 0x20000FFF) = some 9 := by
  decide +kernel
theorem witness_LockHeldUntilResponse :
    MutualExclusion (running [.dmaRx 7]) ∧ (running [.dmaRx 7]).lock = some 0 ∧ (running [.dmaRx 7]).moves = [.dmaRx 7] ∧
      ∃ t, step (running [.dmaRx 7]) = .next t :=
  ⟨witness_MutualExclusion, rfl, rfl, next_of_goesOn (by decide +kernel)⟩
theorem witness_BanksAreIndependent :
    scanning.moves = [.gpio 0] ∧ ∃ t, step scanning = .next t :=
  ⟨rfl, next_of_goesOn (by decide +kernel)⟩
theorem witness_ActiveHandlersCommute :
    let s := { bankZero (fun k => { hooked k with disp := .scan 2 1 }) [] with spiH := .b }
    let u := State.setBank s 2 { s.bank 2 with disp := .entered }
    s.spiH ≠ .idle ∧ (s.bank 0).disp ≠ .idle ∧ (0 : BankId) ≠ 2 ∧ (u.bank 0).disp ≠ .idle ∧ (u.bank 2).disp ≠ .idle := by
  decide +kernel
theorem witness_OnlyScriptItemsStop :
    (∀ t, step (offering [.load .byte 0]) ≠ .next t) ∧ (∀ t, step (offering [.command (Port.ofOp 0)]) ≠ .next t) :=
  ⟨not_next_of_goesOn (by decide +kernel), not_next_of_goesOn (by decide +kernel)⟩

end Sys2Proof.Tests
end

