-- ==== Sys2Proof/Proofs/Scope.lean ====
section
/-! PROOFS of the statements that cite `00_scope.md`: handlers exclude tasks (rule R4), how a command waits or is refused
(rules R4, R79), and a bank's step leaves everything but its bank and the trace (rule R39). -/

namespace Sys2Proof.Machine

/-! ### Handlers and tasks (rule R4) -/

/-- Some handler is active exactly when one of the four phases is not idle. -/
theorem handlerActive_iff {s : State} :
    s.handlerActive = true ↔ s.spiH ≠ .idle ∨ ∃ b : BankId, (s.bank b).disp ≠ .idle := by
  rw [← Bool.not_eq_false, handlerActive_eq_false, not_and_or, not_forall]

/-- While a handler is active a requester is blocked. -/
theorem taskEnabled_of_handlerActive {s : State} (hh : s.handlerActive = true) (r : Nat) : taskEnabled s r = false := by
  unfold taskEnabled
  cases s.reqs[r]? with
  | none => rfl
  | some q => simp [hh]

/-- Settles O28: the requester's move is blocked, so the step does no more than take it off the schedule. -/
theorem handlersExcludeTasks : Obligations.HandlersExcludeTasks := by
  intro s r rest hm hactive
  have hblocked : State.enabled { s with moves := rest } (.task r) = false :=
    taskEnabled_of_handlerActive (s := { s with moves := rest }) (handlerActive_iff.mpr hactive) r
  rw [step_cons hm, runMove_blocked hblocked]

/-! ### Presenting a command (rules R4, R79) -/

/-- A command of a requester that is not IDLE is refused. -/
theorem issue_busy {s : State} {q : Requester} (act : Nat → Host.Outcome State Fault Refusal)
    (hq : s.reqs[s.cmdReq]? = some q) (hp : q.ph ≠ .idle) : s.issue act = .refused (.requesterBusy s.cmdReq) := by
  simp [State.issue, hq, hp]

/-- A command of an IDLE requester waits while a handler is active. -/
theorem issue_waiting {s : State} {q : Requester} (act : Nat → Host.Outcome State Fault Refusal)
    (hq : s.reqs[s.cmdReq]? = some q) (hp : q.ph = .idle) (hh : s.handlerActive = true) : s.issue act = .next s := by
  simp [State.issue, hq, hp, hh]

/-- Every instruction but a control word is a command inside the frame `State.issue`. -/
theorem exec_eq_issue {i : Instr} (hi : ∀ l td, i ≠ .cwS0 l td ∧ i ≠ .cwS1 l td ∧ i ≠ .cwS2 l td ∧ i ≠ .cwS3 l td)
    (s : State) : ∃ act, exec i s = s.issue act := by
  cases i with
  | cwS0 l td => exact absurd rfl (hi l td).1
  | cwS1 l td => exact absurd rfl (hi l td).2.1
  | cwS2 l td => exact absurd rfl (hi l td).2.2.1
  | cwS3 l td => exact absurd rfl (hi l td).2.2.2
  | encode last cs payload => exact ⟨_, by rw [exec, execEncode]⟩
  | transceive tx rx n cb => exact ⟨_, by rw [exec, execTransceive]⟩
  | gpioRegister bank pin mode hook => exact ⟨_, by rw [exec, execGpioRegister]⟩
  | gpioUnregister bank pin => exact ⟨_, by rw [exec, execGpioUnregister]⟩
  | init => exact ⟨_, by rw [exec, execInit]⟩

/-- Settles O15: the frame of every command tests the requester's phase first, then the handlers. -/
theorem commandBusyOrWaiting : Obligations.CommandBusyOrWaiting := by
  intro s q i hi hq
  obtain ⟨act, hexec⟩ := exec_eq_issue hi s
  rw [hexec]
  exact ⟨issue_busy act hq, fun hp hactive => issue_waiting act hq hp (handlerActive_iff.mpr hactive)⟩

/-! ### The steps of one bank (rules R39, R148, R150) -/

/-- A fired step of bank `b`'s dispatcher or pins replaces bank `b` and appends to the trace. -/
theorem Fired.of_bank_move {s t : State} {m : Move} {b : BankId}
    (hm : m = .gpio b ∨ ∃ p v choice, m = .pin b p v choice) (h : Fired m s t) :
    ∃ k es, t = { s with banks := s.banks.set b k, trace := s.trace ++ es } := by
  rcases hm with rfl | ⟨p, v, choice, rfl⟩
  · cases h with
    | gpioEntry => exact ⟨_, [], by rw [List.append_nil]⟩
    | gpioRead => exact ⟨_, [], by rw [List.append_nil]⟩
    | gpioScan => exact ⟨_, _, rfl⟩
  · cases h with
    | pin => exact ⟨_, [], by rw [List.append_nil]⟩

/-- Settles O56: a blocked move changes the schedule alone, a fired one sets the bank it names. -/
theorem banksAreIndependent : Obligations.BanksAreIndependent := by
  intro s t m rest b hmoves hm hstep
  rcases step_fired hstep with ⟨hnil, -⟩ | ⟨m', rest', hmoves', hcases⟩
  · simp [hmoves] at hnil
  obtain ⟨rfl, rfl⟩ := List.cons.inj (hmoves.symm.trans hmoves')
  rcases hcases with ⟨-, rfl⟩ | ⟨-, hfired⟩
  · exact ⟨rfl, fun _ _ => rfl⟩
  · obtain ⟨k, es, rfl⟩ := Fired.of_bank_move hm hfired
    refine ⟨rfl, fun b' hb' => ?_⟩
    rw [State.bank_of_set rfl b', if_neg hb']
    rfl

end Sys2Proof.Machine
end

section
/-! PROOFS of the statements that cite `10_state.md`: who writes each element of the state (rule R39), the frame of the
commands, and the invariants every step keeps.  `BankStep` and `RequesterStep` say once what a rule can do to a bank and
to a requester with the lock; the writers and the invariants follow from them. -/

namespace Sys2Proof.Machine

variable {s t : State} {m : Move}

/-! ### From the step to the rules -/

/-- A predicate that ignores the schedule and that every rule keeps is kept by the step. -/
theorem step_keeps {P : State → Prop} (hmoves : ∀ {s rest}, P s → P { s with moves := rest })
    (hfired : ∀ {m s t}, Fired m s t → P s → P t) (hs : P s) (h : step s = .next t) : P t := by
  rcases step_fired h with ⟨-, rfl⟩ | ⟨m, rest, -, ⟨-, rfl⟩ | ⟨-, hf⟩⟩
  · exact hs
  · exact hmoves hs
  · exact hfired hf (hmoves hs)

/-- The step of a placed move: the agent is blocked, or its rule fires. -/
theorem step_move {rest : List Move} (hm : s.moves = m :: rest) (h : step s = .next t) :
    t = { s with moves := rest } ∨ Fired m { s with moves := rest } t := by
  rcases step_fired h with ⟨hnil, -⟩ | ⟨m', rest', hm', hcases⟩
  · simp [hm] at hnil
  · obtain ⟨rfl, rfl⟩ := List.cons.inj (hm.symm.trans hm')
    exact hcases.imp And.right And.right

/-! ### Who writes the SPI elements (rule R39) -/

/-- `DONE`: DMA_RX raises it, the handler's read of the status register clears it (rules R22, R111, R131). -/
theorem Fired.done_writer (h : Fired m s t) (hne : t.done ≠ s.done) :
    (∃ v, m = .dmaRx v ∧ t.done = true) ∨ (m = .spi ∧ s.spiH = .a ∧ t.done = false) := by
  cases h with
  | dmaRx _ v =>
    refine .inl ⟨v, rfl, ?_⟩
    cases hd : s.done <;> simp_all
  | spiA _ hi => exact .inr ⟨rfl, hi, rfl⟩
  | _ => exact absurd rfl hne

/-- `SIG`: the handler posts it, T4 takes it (rules R108, R133). -/
theorem Fired.sig_writer (h : Fired m s t) (hne : t.sig ≠ s.sig) :
    (m = .spi ∧ s.spiH = .c ∧ t.sig = true) ∨ ∃ r, m = .task r ∧ s.phase r = .t4 ∧ t.sig = false := by
  cases h with
  | spiC _ hi => exact .inl ⟨rfl, hi, rfl⟩
  | t4 _ r q hq hp => exact .inr ⟨r, rfl, hp ▸ State.phase_of_get hq, rfl⟩
  | _ => exact absurd rfl hne

/-- `EN`: T3C starts the engine, the handler stops it (rules R107, R134). -/
theorem Fired.en_writer (h : Fired m s t) (hne : t.en ≠ s.en) :
    (m = .spi ∧ s.spiH = .d1 ∧ t.en = false) ∨ ∃ r, m = .task r ∧ s.phase r = .t3c ∧ t.en = true := by
  cases h with
  | spiD1 _ hi => exact .inl ⟨rfl, hi, rfl⟩
  | t3c _ r q hq hp => exact .inr ⟨r, rfl, hp ▸ State.phase_of_get hq, rfl⟩
  | _ => exact absurd rfl hne

/-- `NVIC_SPI`: T3B enables the line, the handler masks it (rules R106, R135). -/
theorem Fired.nvicSpi_writer (h : Fired m s t) (hne : t.nvicSpi ≠ s.nvicSpi) :
    (m = .spi ∧ s.spiH = .d2 ∧ t.nvicSpi = false) ∨ ∃ r, m = .task r ∧ s.phase r = .t3b ∧ t.nvicSpi = true := by
  cases h with
  | spiD2 _ hi => exact .inl ⟨rfl, hi, rfl⟩
  | t3b _ r q hq hp => exact .inr ⟨r, rfl, hp ▸ State.phase_of_get hq, rfl⟩
  | _ => exact absurd rfl hne

/-- `CB`: T2 stores the callback, the handler clears it (rules R104, R132). -/
theorem Fired.cb_writer (h : Fired m s t) (hne : t.cb ≠ s.cb) :
    (m = .spi ∧ s.spiH = .b ∧ t.cb = none) ∨ ∃ r, m = .task r ∧ s.phase r = .t2 := by
  cases h with
  | spiB _ hi => exact .inl ⟨rfl, hi, rfl⟩
  | t2 _ r q hq hp => exact .inr ⟨r, rfl, hp ▸ State.phase_of_get hq⟩
  | _ => exact absurd rfl hne

/-- T1 acts only on a free lock (rule R103). -/
theorem mayAcquire_lock {r : Nat} (h : mayAcquire s r = true) : s.lock = none := by
  simp only [mayAcquire, Bool.and_eq_true, decide_eq_true_eq] at h
  exact h.1

/-- `LOCK`: T1 acquires, T5 releases (rules R103, R109). -/
theorem Fired.lock_writer (h : Fired m s t) (hne : t.lock ≠ s.lock) :
    ∃ r, m = .task r ∧
      ((s.phase r = .t1 ∧ s.lock = none ∧ t.lock = some r) ∨ (s.phase r = .t5 ∧ t.lock = none)) := by
  cases h with
  | t1 _ r q hq hp _ hm => exact ⟨r, rfl, .inl ⟨hp ▸ State.phase_of_get hq, mayAcquire_lock hm, rfl⟩⟩
  | t5 _ r q hq hp => exact ⟨r, rfl, .inr ⟨hp ▸ State.phase_of_get hq, rfl⟩⟩
  | _ => exact absurd rfl hne

/-- `WAITQ`: T0 appends, T1 removes (rules R102, R103). -/
theorem Fired.waitq_writer (h : Fired m s t) (hne : t.waitq ≠ s.waitq) :
    (∃ r, m = .task r ∧ s.phase r = .t1) ∨ ∃ tx rx n cb, s.presents m (.transceive tx rx n cb) := by
  cases h with
  | t1 _ r q hq hp => exact .inl ⟨r, rfl, hp ▸ State.phase_of_get hq⟩
  | t0 _ r q p items tx rx n cb hq hp _ hs hd => exact .inr ⟨tx, rx, n, cb, r, q, p, items, rfl, hq, hp, hs, hd⟩
  | _ => exact absurd rfl hne

/-- `TPR`, `TCR`: T3A programs them, DMA_TX advances them (rules R105, R110). -/
theorem Fired.transmitDescriptor_writer (h : Fired m s t) (hne : t.tpr ≠ s.tpr ∨ t.tcr ≠ s.tcr) :
    m = .dmaTx ∨ ∃ r, m = .task r ∧ s.phase r = .t3a := by
  cases h with
  | dmaTx => exact .inl rfl
  | t3a _ r q hq hp => exact .inr ⟨r, rfl, hp ▸ State.phase_of_get hq⟩
  | _ => exact (hne.elim (absurd rfl) (absurd rfl))

/-- `RPR`, `RCR`: T3A programs them, DMA_RX advances them (rules R105, R111). -/
theorem Fired.receiveDescriptor_writer (h : Fired m s t) (hne : t.rpr ≠ s.rpr ∨ t.rcr ≠ s.rcr) :
    (∃ v, m = .dmaRx v) ∨ ∃ r, m = .task r ∧ s.phase r = .t3a := by
  cases h with
  | dmaRx _ v => exact .inl ⟨v, rfl⟩
  | t3a _ r q hq hp => exact .inr ⟨r, rfl, hp ▸ State.phase_of_get hq⟩
  | _ => exact (hne.elim (absurd rfl) (absurd rfl))

/-- `INFL`: the two DMA steps (rule R35). -/
theorem Fired.infl_writer (h : Fired m s t) (hne : t.infl ≠ s.infl) : m = .dmaTx ∨ ∃ v, m = .dmaRx v := by
  cases h with
  | dmaTx => exact .inl rfl
  | dmaRx _ v => exact .inr ⟨v, rfl⟩
  | _ => exact absurd rfl hne

/-- `SPI_H`: the handler's own steps (rule R130). -/
theorem Fired.spiH_writer (h : Fired m s t) (hne : t.spiH ≠ s.spiH) : m = .spi := by
  cases h with
  | spiEntry | spiA | spiB | spiC | spiD1 | spiD2 => rfl
  | _ => exact absurd rfl hne

/-- `READY`, `IE_DONE`: INIT (rule R100). -/
theorem Fired.ready_writer (h : Fired m s t) (hne : t.ready ≠ s.ready ∨ t.ieDone ≠ s.ieDone) :
    s.presents m .init := by
  cases h with
  | init _ r q p items hq hp _ hs hd => exact ⟨r, q, p, items, rfl, hq, hp, hs, hd⟩
  | _ => exact (hne.elim (absurd rfl) (absurd rfl))

/-- Settles O52: a blocked move writes nothing, and each element has its own writers among the rules. -/
theorem spiElementsKeepTheirWriters : Obligations.SpiElementsKeepTheirWriters := by
  intro s t m rest hm hstep
  rcases step_move hm hstep with rfl | h
  · simp
  · exact ⟨h.done_writer, h.sig_writer, h.en_writer, h.nvicSpi_writer, h.cb_writer, h.lock_writer, h.waitq_writer,
      h.transmitDescriptor_writer, h.receiveDescriptor_writer, h.infl_writer, h.spiH_writer, h.ready_writer⟩

/-! ### The trace (rule R38) -/

/-- What a rule emits (rule R38). -/
theorem Fired.trace_grows (h : Fired m s t) : ∃ es : List Event, t.trace = s.trace ++ es ∧ es.length ≤ 1 := by
  cases h with
  | respond | init | unregister | t5 | g4 | dmaTx => exact ⟨_, rfl, by simp⟩
  | spiB => exact ⟨_, rfl, by cases s.cb <;> simp⟩
  | gpioScan => exact ⟨_, rfl, by split <;> [split; skip] <;> simp⟩
  | _ => exact ⟨[], (List.append_nil _).symm, by simp⟩

/-- Settles O59: a step without a rule leaves the trace, and a rule emits at most one event. -/
theorem traceOnlyGrows : Obligations.TraceOnlyGrows := by
  intro s t hstep
  rcases step_fired hstep with ⟨-, rfl⟩ | ⟨m, rest, -, ⟨-, rfl⟩ | ⟨-, h⟩⟩
  · exact ⟨[], by simp⟩
  · exact ⟨[], by simp⟩
  · exact h.trace_grows

/-! ### Memory (rules R37, R51) -/

/-- The rules that write `MEM`, with what they write. -/
theorem Fired.mem_writer (h : Fired m s t) (hne : t.mem ≠ s.mem) :
    (∃ v, m = .dmaRx v ∧ s.en = true ∧ t.mem = s.mem.writeWord s.rpr v) ∨
    (∃ r q width addr v items, m = .task r ∧ s.reqs[r]? = some q ∧ q.ph = .idle ∧
      q.script = .store width addr v :: items ∧ t.mem = s.mem.store width addr v) := by
  cases h with
  | dmaRx _ v hen => exact .inl ⟨v, rfl, hen, rfl⟩
  | store _ r q width addr v items hq hp _ hs => exact .inr ⟨r, q, width, addr, v, items, rfl, hq, hp, hs, rfl⟩
  | _ => exact absurd rfl hne

/-- The two writers of memory store whole accesses, which keep the canonical form. -/
theorem Fired.wf_mem (h : Fired m s t) (hs : Memory.wf s.mem) : Memory.wf t.mem := by
  by_cases hne : t.mem = s.mem
  · rwa [hne]
  · rcases h.mem_writer hne with ⟨v, -, -, ht⟩ | ⟨r, q, width, addr, v, items, -, -, -, -, ht⟩
    · exact ht ▸ Memory.wf_writeWord hs _ _
    · exact ht ▸ Memory.wf_store hs _ _ _

/-- Settles O40: the two rules that write memory store whole accesses, which keep the form. -/
theorem memoryStaysCanonical : Obligations.MemoryStaysCanonical := by
  intro s t hs hstep
  exact step_keeps (P := fun s => Memory.wf s.mem) id Fired.wf_mem hs hstep

/-- A byte outside the bytes of a requester's own store reads as before. -/
theorem Memory.readByte_store_ne {m : Memory} (hm : Memory.wf m) (width : Width) (a v : Word) (x : Nat)
    (hx : ∀ k < width.bytes, x ≠ byteAddr a k) : (m.store width a v).readByte x = m.readByte x := by
  have h0 := Memory.wf_writeByte hm (byteAddr_lt a 0) (v.extractLsb' 0 8)
  cases width with
  | byte => rw [Memory.store, Memory.readByte_writeByte _ hm.1, if_neg (hx 0 (by decide))]
  | half =>
    rw [Memory.store, Memory.readByte_writeByte _ h0.1, if_neg (hx 1 (by decide)), Memory.readByte_writeByte _ hm.1,
      if_neg (hx 0 (by decide))]
  | word => exact Memory.readByte_writeWord_ne hm a v x hx

/-- Settles O54: a byte that differs is one of the bytes the two writers of memory name. -/
theorem memoryKeepsItsWriters : Obligations.MemoryKeepsItsWriters := by
  intro s t m rest a hwf hm hstep hne
  rcases step_move hm hstep with rfl | h
  · exact absurd rfl hne
  rcases h.mem_writer (fun hmem => hne (by rw [hmem])) with
    ⟨v, rfl, hen, ht⟩ | ⟨r, q, width, addr, v, items, rfl, hq, hp, hs, ht⟩
  · refine .inl ⟨v, rfl, hen, ?_⟩
    by_contra hout
    push Not at hout
    exact hne (ht ▸ Memory.readByte_writeWord_ne hwf _ v a hout)
  · refine .inr ⟨r, q, width, addr, v, items, rfl, hq, hp, hs, ?_⟩
    by_contra hout
    push Not at hout
    exact hne (ht ▸ Memory.readByte_store_ne hwf width addr v a hout)

/-! ### Bits of the bank registers (rules R32, R148) -/

/-- A write of a pin's mask to `IDR[b]` clears that pin's bit alone. -/
theorem Bank.getLsbD_writeIdr (k : Bank) (p j : PinId) :
    (k.writeIdr (pinMask p)).imr.getLsbD j = if j = p then false else k.imr.getLsbD j := by
  simp only [Bank.writeIdr, BitVec.getLsbD_and, BitVec.getLsbD_not, getLsbD_pinMask, j.isLt, decide_true, Bool.true_and]
  split <;> simp_all

/-- A write of a pin's mask to `IER[b]` sets that pin's bit alone. -/
theorem Bank.getLsbD_writeIer (k : Bank) (p j : PinId) :
    (k.writeIer (pinMask p)).imr.getLsbD j = if j = p then true else k.imr.getLsbD j := by
  simp only [Bank.writeIer, BitVec.getLsbD_or, getLsbD_pinMask]
  split <;> simp_all

/-- Driving a pin changes that pin's level alone. -/
theorem getLsbD_setBit (w : Word) (p j : PinId) (v : Bool) :
    (setBit w p v).getLsbD j = if j = p then v else w.getLsbD j := by
  cases v
  · exact Bank.getLsbD_writeIdr ⟨false, 0, w, Vector.replicate 32 none, Vector.replicate 32 none, 0, .idle⟩ p j
  · exact Bank.getLsbD_writeIer ⟨false, 0, w, Vector.replicate 32 none, Vector.replicate 32 none, 0, .idle⟩ p j

/-- A pin event can set that pin's status bit, and changes no other. -/
theorem Bank.getLsbD_isr_pinEvent (k : Bank) (p j : PinId) (v choice : Bool) :
    (k.pinEvent p v choice).isr.getLsbD j =
      (k.isr.getLsbD j || (decide (j = p) && triggers k.mode[p] (k.level.getLsbD p) v choice)) := by
  simp only [Bank.pinEvent]
  split <;> simp only [BitVec.getLsbD_or, getLsbD_pinMask, Bool.and_true, Bool.and_false, Bool.or_false, *]

/-! ### What a step can do to one bank -/

/-- Everything the step of `m` can make of bank `b`. -/
inductive BankStep (m : Move) (s : State) (b : BankId) : Bank → Prop where
  | keep : BankStep m s b (s.bank b)
  | enable (hi : s.presents m .init) : BankStep m s b { s.bank b with nvic := true }
  | unregister (bank : BitVec 2) (pin : BitVec 5) (hb : bank.toNat = b.val)
      (hi : s.presents m (.gpioUnregister bank pin)) : BankStep m s b ((s.bank b).writeIdr (pinMask (pinOf pin)))
  | mask (r : Nat) (q : Latch) (hm : m = .task r) (hp : s.phase r = .g1) (hl : s.latch r = q) (hb : q.bank = b) :
      BankStep m s b ((s.bank b).writeIdr (pinMask q.pin))
  | configure (r : Nat) (q : Latch) (hm : m = .task r) (hp : s.phase r = .g2) (hl : s.latch r = q) (hb : q.bank = b) :
      BankStep m s b { s.bank b with mode := (s.bank b).mode.set q.pin (some q.mode) }
  | install (r : Nat) (q : Latch) (hm : m = .task r) (hp : s.phase r = .g3) (hl : s.latch r = q) (hb : q.bank = b) :
      BankStep m s b { s.bank b with hook := (s.bank b).hook.set q.pin (some q.hook) }
  | unmask (r : Nat) (q : Latch) (hm : m = .task r) (hp : s.phase r = .g4) (hl : s.latch r = q) (hb : q.bank = b) :
      BankStep m s b ((s.bank b).writeIer (pinMask q.pin))
  | entry (hm : m = .gpio b) : BankStep m s b { s.bank b with disp := .entered }
  | read (hm : m = .gpio b) (hd : (s.bank b).disp = .entered) :
      BankStep m s b { s.bank b with isr := 0, disp := .scan ((s.bank b).isr &&& (s.bank b).imr) 0 }
  | scan (snapshot : Word) (i : PinId) (hm : m = .gpio b) (hd : (s.bank b).disp = .scan snapshot i) :
      BankStep m s b { s.bank b with disp := nextScan snapshot i }
  | pin (p : PinId) (v choice : Bool) (hm : m = .pin b p v choice) : BankStep m s b ((s.bank b).pinEvent p v choice)

/-- A bank, where every bank was updated alike. -/
theorem State.bank_of_map {f : Bank → Bank} (ht : t.banks = s.banks.map f) (b : BankId) : t.bank b = f (s.bank b) := by
  simp [State.bank, ht]

/-- A field of a bank, where the bank that was set kept that field. -/
theorem State.bankField_of_set {α : Type} {b : BankId} {k : Bank} (ht : t.banks = s.banks.set b k) (f : Bank → α)
    (hk : f k = f (s.bank b)) (b' : BankId) : f (t.bank b') = f (s.bank b') := by
  rw [State.bank_of_set ht]
  split
  · next hb => rw [hk, hb]
  · rfl

/-- A step that sets one bank does nothing to the others. -/
theorem BankStep.of_set {b₀ : BankId} {k : Bank} (ht : t.banks = s.banks.set b₀ k) (hk : BankStep m s b₀ k)
    (b : BankId) : BankStep m s b (t.bank b) := by
  rw [State.bank_of_set ht b]
  split
  · next hb => exact hb ▸ hk
  · exact .keep

/-- A bank operand that names bank `b` has its number (rule R77). -/
theorem bankOf_some {bank : BitVec 2} {b : BankId} (h : bankOf bank = some b) : bank.toNat = b.val := by
  unfold bankOf at h
  split at h
  · exact congrArg Fin.val (Option.some.inj h)
  · cases h

/-- Each rule makes of a bank one of the results `BankStep` lists. -/
theorem Fired.bankStep (h : Fired m s t) (b : BankId) : BankStep m s b (t.bank b) := by
  cases h with
  | init _ r q p items hq hp _ hs hd =>
    rw [State.bank_of_map (s := s) (f := fun k => { k with nvic := true }) rfl b]
    exact .enable ⟨r, q, p, items, rfl, hq, hp, hs, hd⟩
  | unregister _ r q p items bank pin b₀ hq hp _ hs hd hb =>
    exact .of_set rfl (.unregister bank pin (bankOf_some hb) ⟨r, q, p, items, rfl, hq, hp, hs, hd⟩) b
  | g1 _ r q hq hp =>
    exact .of_set rfl (.mask r q.req rfl ((State.phase_of_get hq).trans hp) (State.latch_of_get hq) rfl) b
  | g2 _ r q hq hp =>
    exact .of_set rfl (.configure r q.req rfl ((State.phase_of_get hq).trans hp) (State.latch_of_get hq) rfl) b
  | g3 _ r q hq hp =>
    exact .of_set rfl (.install r q.req rfl ((State.phase_of_get hq).trans hp) (State.latch_of_get hq) rfl) b
  | g4 _ r q hq hp =>
    exact .of_set rfl (.unmask r q.req rfl ((State.phase_of_get hq).trans hp) (State.latch_of_get hq) rfl) b
  | gpioEntry _ b₀ => exact .of_set rfl (.entry rfl) b
  | gpioRead _ b₀ hd => exact .of_set rfl (.read rfl hd) b
  | gpioScan _ b₀ snapshot i hd => exact .of_set rfl (.scan snapshot i rfl hd) b
  | pin _ b₀ p v choice => exact .of_set rfl (.pin p v choice rfl) b
  | _ => exact .keep

/-! ### Who writes the GPIO elements (rules R32, R39) -/

section
variable {b : BankId} {k : Bank}

/-- `HOOK[b][p]`: G3 of a registration of the pin (rule R143). -/
theorem BankStep.hook_writer (h : BankStep m s b k) {p : PinId} (hne : k.hook[p] ≠ (s.bank b).hook[p]) :
    ∃ r, m = .task r ∧ s.phase r = .g3 ∧ (s.latch r).bank = b ∧ (s.latch r).pin = p ∧
      k.hook[p] = some (s.latch r).hook := by
  cases h with
  | install r q hm hp hl hb =>
    subst hl
    by_cases hpin : (s.latch r).pin = p
    · exact ⟨r, hm, hp, hb, hpin, by simp [hpin]⟩
    · simp [Fin.val_inj, hpin] at hne
  | _ => exact absurd rfl hne

/-- `MODE[b][p]`: G2 of a registration of the pin (rule R142). -/
theorem BankStep.mode_writer (h : BankStep m s b k) {p : PinId} (hne : k.mode[p] ≠ (s.bank b).mode[p]) :
    ∃ r, m = .task r ∧ s.phase r = .g2 ∧ (s.latch r).bank = b ∧ (s.latch r).pin = p ∧
      k.mode[p] = some (s.latch r).mode := by
  cases h with
  | configure r q hm hp hl hb =>
    subst hl
    by_cases hpin : (s.latch r).pin = p
    · exact ⟨r, hm, hp, hb, hpin, by simp [hpin]⟩
    · simp [Fin.val_inj, hpin] at hne
  | _ => exact absurd rfl hne

/-- A mask bit: GPIO_UNREGISTER and G1 clear it, G4 sets it (rules R141, R144, R146). -/
theorem BankStep.imr_writer (h : BankStep m s b k) {p : PinId}
    (hne : k.imr.getLsbD p ≠ (s.bank b).imr.getLsbD p) :
    (∃ bank pin, bank.toNat = b.val ∧ pin.toNat = p.val ∧ s.presents m (.gpioUnregister bank pin) ∧
      k.imr.getLsbD p = false) ∨
    ∃ r, m = .task r ∧ (s.latch r).bank = b ∧ (s.latch r).pin = p ∧
      ((s.phase r = .g1 ∧ k.imr.getLsbD p = false) ∨ (s.phase r = .g4 ∧ k.imr.getLsbD p = true)) := by
  cases h with
  | unregister bank pin hb hi =>
    rw [Bank.getLsbD_writeIdr] at hne ⊢
    by_cases hpin : p = pinOf pin
    · exact .inl ⟨bank, pin, hb, hpin ▸ rfl, hi, if_pos hpin⟩
    · exact absurd (if_neg hpin) hne
  | mask r q hm hp hl hb =>
    subst hl
    rw [Bank.getLsbD_writeIdr] at hne ⊢
    by_cases hpin : p = (s.latch r).pin
    · exact .inr ⟨r, hm, hb, hpin.symm, .inl ⟨hp, if_pos hpin⟩⟩
    · exact absurd (if_neg hpin) hne
  | unmask r q hm hp hl hb =>
    subst hl
    rw [Bank.getLsbD_writeIer] at hne ⊢
    by_cases hpin : p = (s.latch r).pin
    · exact .inr ⟨r, hm, hb, hpin.symm, .inr ⟨hp, if_pos hpin⟩⟩
    · exact absurd (if_neg hpin) hne
  | _ => exact absurd rfl hne

/-- A status bit: the dispatcher's read clears the register, an event of the pin sets the bit (rules R148, R151). -/
theorem BankStep.isr_writer (h : BankStep m s b k) {p : PinId}
    (hne : k.isr.getLsbD p ≠ (s.bank b).isr.getLsbD p) :
    (m = .gpio b ∧ (s.bank b).disp = .entered ∧ k.isr = 0) ∨
      ∃ v choice, m = .pin b p v choice ∧ k.isr.getLsbD p = true := by
  cases h with
  | read hm hd => exact .inl ⟨hm, hd, rfl⟩
  | pin p₀ v choice hm =>
    rw [Bank.getLsbD_isr_pinEvent] at hne ⊢
    by_cases hpin : p = p₀
    · subst hpin
      exact .inr ⟨v, choice, hm, by simp_all⟩
    · simp [hpin] at hne
  | _ => exact absurd rfl hne

/-- A pin's level: the pin's own event (rule R148). -/
theorem BankStep.level_writer (h : BankStep m s b k) {p : PinId}
    (hne : k.level.getLsbD p ≠ (s.bank b).level.getLsbD p) :
    ∃ v choice, m = .pin b p v choice ∧ k.level.getLsbD p = v := by
  cases h with
  | pin p₀ v choice hm =>
    simp only [Bank.pinEvent, getLsbD_setBit] at hne ⊢
    by_cases hpin : p = p₀
    · exact ⟨v, choice, hpin ▸ hm, if_pos hpin⟩
    · exact absurd (if_neg hpin) hne
  | _ => exact absurd rfl hne

/-- `GPIO_H[b]`: the dispatcher's own steps (rule R150). -/
theorem BankStep.disp_writer (h : BankStep m s b k) (hne : k.disp ≠ (s.bank b).disp) : m = .gpio b := by
  cases h with
  | entry hm | read hm | scan _ _ hm => exact hm
  | _ => exact absurd rfl hne

/-- `NVIC_GPIO[b]`: INIT (rule R100). -/
theorem BankStep.nvic_writer (h : BankStep m s b k) (hne : k.nvic ≠ (s.bank b).nvic) : s.presents m .init := by
  cases h with
  | enable hi => exact hi
  | _ => exact absurd rfl hne

end

/-- Settles O53: a blocked move writes no bank, and a fired one makes of bank `b` what `BankStep` lists. -/
theorem gpioElementsKeepTheirWriters : Obligations.GpioElementsKeepTheirWriters := by
  intro s t m rest b hm hstep
  have h : BankStep m { s with moves := rest } b (t.bank b) := by
    rcases step_move hm hstep with rfl | h
    · exact .keep
    · exact h.bankStep b
  exact ⟨fun p => h.hook_writer, fun p => h.mode_writer, fun p => h.imr_writer, fun p => h.isr_writer,
    fun p => h.level_writer, h.disp_writer, h.nvic_writer⟩

/-! ### The frame of the commands (rules R39, R90) -/

/-- Settles O17: every answer a command can give, by the command, writes outside none of these elements. -/
theorem commandFrame : Obligations.CommandFrame := by
  intro i s t hi h
  cases i with
  | cwS0 l td => exact absurd rfl (hi l td).1
  | cwS1 l td => exact absurd rfl (hi l td).2.1
  | cwS2 l td => exact absurd rfl (hi l td).2.2.1
  | cwS3 l td => exact absurd rfl (hi l td).2.2.2
  | encode last cs payload =>
    rcases execEncode_next h with rfl | rfl | ⟨bits, rfl⟩ <;> simp
  | transceive tx rx n cb =>
    rcases execTransceive_next h with rfl | rfl | ⟨q, -, -, -, -, -, rfl⟩
    · simp
    · simp
    · simp +contextual [State.bank, List.getElem?_set_ne, eq_comm]
  | gpioRegister bank pin mode hook =>
    rcases execGpioRegister_next h with rfl | rfl | ⟨q, b, -, -, -, -, rfl⟩
    · simp
    · simp
    · simp +contextual [State.bank, List.getElem?_set_ne, eq_comm]
  | gpioUnregister bank pin =>
    rcases execGpioUnregister_next h with rfl | rfl | ⟨b, -, rfl⟩
    · simp
    · simp
    · have field {α : Type} (f : Bank → α) := State.bankField_of_set (s := s)
        (t := s.setBank b ((s.bank b).writeIdr (pinMask (pinOf pin)))) rfl f
      simp [field Bank.nvic rfl, field Bank.isr rfl, field Bank.mode rfl, field Bank.hook rfl, field Bank.level rfl,
        field Bank.disp rfl]
  | init =>
    rcases execInit_next h with rfl | rfl
    · simp
    · simp [State.bank]

/-! ### What a step can do to the requesters, the lock and the wait queue (rules R12, R17) -/

/-- The request that passed the tests of T0, as the latch holds it. -/
def Latch.withTransfer (q : Latch) (tx rx n : Word) (cb : Option Handle) : Latch :=
  { q with tx := tx, rx := rx, n := n.setWidth 16, cb := cb }

/-- The hook of the pin that a latched registration names (rule R143). -/
def State.latchedHook (s : State) (q : Latch) : Option Handle := (s.bank q.bank).hook[q.pin]

/-- Everything a step can do to a requester, with what it does to `LOCK` and `WAITQ` there. -/
inductive RequesterStep (s t : State) : Prop where
  /-- A step of another agent. -/
  | keep (hreqs : t.reqs = s.reqs) (hlock : t.lock = s.lock) (hwait : t.waitq = s.waitq)
  /-- T0: an accepted request joins the wait queue. -/
  | enqueue (r : Nat) (q q' : Requester) (tx rx n : Word) (cb : Option Handle) (hq : s.reqs[r]? = some q)
      (hreqs : t.reqs = s.reqs.set r q') (hlock : t.lock = s.lock) (hwait : t.waitq = s.waitq ++ [r])
      (hp : q.ph = .idle) (hp' : q'.ph = .t1) (ha : Accepts s tx rx n) (hreq : q'.req = q.req.withTransfer tx rx n cb)
  /-- T1: the requester leaves the wait queue with the lock. -/
  | acquire (r : Nat) (q q' : Requester) (hq : s.reqs[r]? = some q) (hreqs : t.reqs = s.reqs.set r q')
      (hfree : s.lock = none) (hlock : t.lock = some r) (hwait : t.waitq = s.waitq.filter (· ≠ r))
      (hp : q.ph = .t1) (hp' : q'.ph = .t2) (hreq : q'.req = q.req)
  /-- T5: the holder releases the lock. -/
  | release (r : Nat) (q q' : Requester) (hq : s.reqs[r]? = some q) (hreqs : t.reqs = s.reqs.set r q')
      (hlock : t.lock = none) (hwait : t.waitq = s.waitq) (hp : q.ph = .t5) (hp' : q'.ph = .idle)
  /-- Every other step of a requester stays on its side of the lock, and one that reaches G4 has installed the hook. -/
  | advance (r : Nat) (q q' : Requester) (hq : s.reqs[r]? = some q) (hreqs : t.reqs = s.reqs.set r q')
      (hlock : t.lock = s.lock) (hwait : t.waitq = s.waitq) (hfl : q'.ph.inFlight = q.ph.inFlight)
      (hp : q.ph ≠ .t1) (hp' : q'.ph ≠ .t1) (hreq : q.ph.inFlight = true → q'.req = q.req)
      (hhook : q'.ph = .g4 → t.latchedHook q'.req ≠ none)

/-- Where one requester was set: what it holds now, and that every other is as before. -/
theorem State.own_or_other {r : Nat} {q q' : Requester} (hq : s.reqs[r]? = some q) (hreqs : t.reqs = s.reqs.set r q')
    (r' : Nat) :
    (r' = r ∧ t.phase r' = q'.ph ∧ t.latch r' = q'.req) ∨ (t.phase r' = s.phase r' ∧ t.latch r' = s.latch r') := by
  rw [State.phase_of_set hq hreqs, State.latch_of_set hq hreqs]
  by_cases hr : r' = r <;> simp [hr]

/-- Each rule does to the requesters one of the things `RequesterStep` lists. -/
theorem Fired.requesterStep (h : Fired m s t) : RequesterStep s t := by
  cases h with
  | t0 _ r q p items tx rx n cb hq hp _ _ _ ha => exact .enqueue r q _ tx rx n cb hq rfl rfl rfl hp rfl ha rfl
  | t1 _ r q hq hp _ hm => exact .acquire r q _ hq rfl (mayAcquire_lock hm) rfl rfl hp rfl rfl
  | t5 _ r q hq hp => exact .release r q _ hq rfl rfl rfl hp rfl
  | g3 _ r q hq hp =>
    refine .advance r q _ hq rfl rfl rfl (by simp [hp, Phase.inFlight]) (by simp [hp]) (by simp) (fun _ => rfl)
      fun _ => ?_
    rw [State.latchedHook, State.bank_of_set (s := s) rfl, if_pos rfl]
    simp
  | respond _ r q _ _ _ _ _ _ hq hp | init _ r q _ _ hq hp | g0 _ r q _ _ _ _ _ _ _ hq hp
  | unregister _ r q _ _ _ _ _ hq hp | load _ r q _ _ _ hq hp | store _ r q _ _ _ _ hq hp | t2 _ r q hq hp
  | t3a _ r q hq hp | t3b _ r q hq hp | t3c _ r q hq hp | t4 _ r q hq hp | g1 _ r q hq hp | g2 _ r q hq hp
  | g4 _ r q hq hp =>
    refine .advance r q _ hq rfl rfl rfl ?_ ?_ ?_ ?_ ?_ <;> simp [hp, Phase.inFlight]
  | _ => exact .keep rfl rfl rfl

/-! ### Mutual exclusion (rules R17, R114) -/

/-- A requester that stays on its side of the lock keeps mutual exclusion. -/
theorem MutualExclusion.of_set (hx : MutualExclusion s) {r : Nat} {q q' : Requester} (hq : s.reqs[r]? = some q)
    (hreqs : t.reqs = s.reqs.set r q') (hlock : t.lock = s.lock) (hfl : q'.ph.inFlight = q.ph.inFlight) :
    MutualExclusion t := by
  intro r'
  rw [State.phase_of_set hq hreqs, hlock]
  split
  · next hr =>
    rw [hfl, ← State.phase_of_get hq, hr]
    exact hx r
  · exact hx r'

/-- Only T1 and T5 cross the lock, and they move `LOCK` with the phase. -/
theorem RequesterStep.mutualExclusion (h : RequesterStep s t) (hx : MutualExclusion s) : MutualExclusion t := by
  cases h with
  | keep hreqs hlock => exact fun r => by rw [State.phase_congr hreqs, hlock]; exact hx r
  | enqueue r q q' _ _ _ _ hq hreqs hlock _ hp hp' => exact hx.of_set hq hreqs hlock (by rw [hp, hp']; rfl)
  | advance r q q' hq hreqs hlock _ hfl => exact hx.of_set hq hreqs hlock hfl
  | acquire r q q' hq hreqs hfree hlock _ _ hp' =>
    intro r'
    have hidle := hx r'
    rw [State.phase_of_set hq hreqs, hlock]
    by_cases hr : r' = r
    · simp [hr, hp', Phase.inFlight]
    · simpa [hfree, hr, Ne.symm hr] using hidle
  | release r q q' hq hreqs hlock _ hp hp' =>
    intro r'
    have hheld : s.lock = some r := (hx r).mp (by rw [State.phase_of_get hq, hp]; rfl)
    have hidle := hx r'
    rw [State.phase_of_set hq hreqs, hlock]
    by_cases hr : r' = r
    · simp [hr, hp', Phase.inFlight]
    · simpa [hheld, hr, Ne.symm hr] using hidle

/-- Settles O41: T1 takes a free lock, T5 releases the holder's, and no other step crosses the lock. -/
theorem mutualExclusionKept : Obligations.MutualExclusionKept := by
  intro s t hs hstep
  exact step_keeps id (fun h => h.requesterStep.mutualExclusion) hs hstep

/-! ### The wait queue (rule R17) -/

/-- A step of a requester that neither enters nor leaves T1 keeps the wait queue. -/
theorem WaitersListed.of_set (hw : WaitersListed s) {r : Nat} {q q' : Requester} (hq : s.reqs[r]? = some q)
    (hreqs : t.reqs = s.reqs.set r q') (hwait : t.waitq = s.waitq) (hp : q.ph ≠ .t1) (hp' : q'.ph ≠ .t1) :
    WaitersListed t := by
  obtain ⟨hnodup, hmem⟩ := hw
  refine ⟨hwait ▸ hnodup, fun r' => ?_⟩
  rw [State.phase_of_set hq hreqs, hwait, hmem]
  by_cases hr : r' = r
  · simp [hr, State.phase_of_get hq, hp, hp']
  · simp [hr]

/-- Only T0 and T1 cross the wait queue, and they move `WAITQ` with the phase. -/
theorem RequesterStep.waitersListed (h : RequesterStep s t) (hw : WaitersListed s) : WaitersListed t := by
  cases h with
  | keep hreqs _ hwait => exact ⟨hwait ▸ hw.1, fun r => by rw [State.phase_congr hreqs, hwait]; exact hw.2 r⟩
  | release r q q' hq hreqs _ hwait hp hp' => exact hw.of_set hq hreqs hwait (by simp [hp]) (by simp [hp'])
  | advance r q q' hq hreqs _ hwait _ hp hp' => exact hw.of_set hq hreqs hwait hp hp'
  | enqueue r q q' _ _ _ _ hq hreqs _ hwait hp hp' =>
    obtain ⟨hnodup, hmem⟩ := hw
    have hnew : r ∉ s.waitq := by rw [hmem, State.phase_of_get hq, hp]; simp
    refine ⟨?_, fun r' => ?_⟩
    · rw [hwait, List.nodup_append]
      exact ⟨hnodup, List.nodup_singleton r, fun x hx y hy => by
        rw [List.mem_singleton.mp hy]; exact fun e => hnew (e ▸ hx)⟩
    · rw [State.phase_of_set hq hreqs, hwait, List.mem_append, hmem]
      by_cases hr : r' = r <;> simp [hr, hp']
  | acquire r q q' hq hreqs _ _ hwait _ hp' =>
    obtain ⟨hnodup, hmem⟩ := hw
    refine ⟨hwait ▸ hnodup.filter _, fun r' => ?_⟩
    rw [State.phase_of_set hq hreqs, hwait, List.mem_filter, hmem]
    by_cases hr : r' = r <;> simp [hr, hp']

/-- Settles O42: T0 appends a requester that is IDLE, T1 removes it, and no other step enters or leaves T1. -/
theorem waitQueueKept : Obligations.WaitQueueKept := by
  intro s t hs hstep
  exact step_keeps id (fun h => h.requesterStep.waitersListed) hs hstep

/-! ### Accepted requests (rules R53, R54, R102) -/

/-- No rule writes the parameters (rule R230). -/
theorem Fired.cfg_eq (h : Fired m s t) : t.cfg = s.cfg := by
  cases h <;> rfl

/-- INIT sets `READY` and nothing clears it (rule R21). -/
theorem Fired.ready_of_ready (h : Fired m s t) (hready : s.ready = true) : t.ready = true := by
  cases h with
  | init => rfl
  | _ => exact hready

/-- With a legal `BUF_CAP`, a request that passed the tests of T0 fits the 16-bit count it is latched in. -/
theorem Accepts.latch_accepted {tx rx n : Word} (ha : Accepts s tx rx n) (hcfg : s.cfg.wellFormed = true) (q : Latch)
    (cb : Option Handle) : s.ready = true ∧ (q.withTransfer tx rx n cb).accepted s.cfg := by
  obtain ⟨hlen, hnone⟩ := ha
  obtain ⟨hready, hn0, htx, hrx, htxFits, hrxFits, hmeet, htxMap, hrxMap⟩ := transferRefusal_none hnone
  have hcap : s.cfg.bufCap ≤ 65535 := by
    simp only [Params.wellFormed, Bool.and_eq_true, decide_eq_true_eq] at hcfg
    exact hcfg.1.2
  have hn : (n.setWidth 16).toNat = n.toNat := by
    rw [BitVec.toNat_setWidth]
    exact Nat.mod_eq_of_lt (by omega)
  have hne : n.setWidth 16 ≠ 0 := by
    intro h0
    rw [h0] at hn
    exact hn0 (BitVec.eq_of_toNat_eq hn.symm)
  refine ⟨hready, hne, ?_⟩
  simp only [Latch.withTransfer, hn]
  exact ⟨hlen, htx, hrx, htxFits, hrxFits, hmeet, htxMap, hrxMap⟩

/-- A requester in T1 to T5 after a step was there before with the same latch, or its request was accepted in it. -/
theorem RequesterStep.transferring (h : RequesterStep s t) (hcfg : s.cfg.wellFormed = true) {r : Nat}
    (hr : (t.phase r).transferring = true) :
    ((s.phase r).transferring = true ∧ t.latch r = s.latch r) ∨
      (s.ready = true ∧ (t.latch r).accepted s.cfg) := by
  cases h with
  | keep hreqs => exact .inl ⟨State.phase_congr hreqs r ▸ hr, State.latch_congr hreqs r⟩
  | enqueue r₀ q q' tx rx n cb hq hreqs _ _ _ _ ha hreq =>
    rcases State.own_or_other hq hreqs r with ⟨-, -, hlatch⟩ | ⟨hph, hlatch⟩
    · right
      rw [hlatch, hreq]
      exact ha.latch_accepted hcfg _ _
    · exact .inl ⟨hph ▸ hr, hlatch⟩
  | acquire r₀ q q' hq hreqs _ _ _ hp _ hreq =>
    rcases State.own_or_other hq hreqs r with ⟨rfl, -, hlatch⟩ | ⟨hph, hlatch⟩
    · left
      rw [hlatch, hreq, State.phase_of_get hq, State.latch_of_get hq, hp]
      exact ⟨rfl, rfl⟩
    · exact .inl ⟨hph ▸ hr, hlatch⟩
  | release r₀ q q' hq hreqs _ _ _ hp' =>
    rcases State.own_or_other hq hreqs r with ⟨-, hph, -⟩ | ⟨hph, hlatch⟩
    · rw [hph, hp'] at hr; cases hr
    · exact .inl ⟨hph ▸ hr, hlatch⟩
  | advance r₀ q q' hq hreqs _ _ hfl _ hp' hreq =>
    rcases State.own_or_other hq hreqs r with ⟨rfl, hph, hlatch⟩ | ⟨hph, hlatch⟩
    · have hflight : q.ph.inFlight = true := by simpa [Phase.transferring, hph, hp', hfl] using hr
      left
      rw [hlatch, hreq hflight, State.phase_of_get hq, State.latch_of_get hq]
      exact ⟨by simp [Phase.transferring, hflight], rfl⟩
    · exact .inl ⟨hph ▸ hr, hlatch⟩

/-- A request being served was accepted at its T0, and nothing it was checked against changes. -/
theorem Fired.requestsAccepted (h : Fired m s t) (hcfg : s.cfg.wellFormed = true) (ha : RequestsAccepted s) :
    RequestsAccepted t := by
  intro r hr
  rw [h.cfg_eq]
  rcases h.requesterStep.transferring hcfg hr with ⟨hr', hlatch⟩ | ⟨hready, hacc⟩
  · obtain ⟨hready, hacc⟩ := ha r hr'
    exact ⟨h.ready_of_ready hready, hlatch ▸ hacc⟩
  · exact ⟨h.ready_of_ready hready, hacc⟩

/-! ### The enables of INIT (rule R100) -/

/-- A step keeps the three enables of INIT, or sets them all. -/
theorem Fired.enables (h : Fired m s t) :
    (t.ready = s.ready ∧ t.ieDone = s.ieDone ∧ ∀ b : BankId, (t.bank b).nvic = (s.bank b).nvic) ∨
      (t.ready = true ∧ t.ieDone = true ∧ ∀ b : BankId, (t.bank b).nvic = true) := by
  cases h with
  | init => exact .inr ⟨rfl, rfl, fun b => by rw [State.bank_of_map (s := s) rfl b]⟩
  | unregister | g1 | g2 | g3 | g4 | gpioEntry | gpioRead | gpioScan | pin =>
    exact .inl ⟨rfl, rfl, State.bankField_of_set rfl Bank.nvic (by rfl)⟩
  | _ => exact .inl ⟨rfl, rfl, fun _ => rfl⟩

/-- INIT sets the three enables together, and nothing else writes one. -/
theorem Fired.enablesAgree (h : Fired m s t) (ha : EnablesAgree s) : EnablesAgree t := by
  obtain ⟨hie, hnvic⟩ := ha
  rcases h.enables with ⟨hready, hie', hnvic'⟩ | ⟨hready, hie', hnvic'⟩
  · exact ⟨by rw [hie', hie, hready], fun b => by rw [hnvic', hnvic, hready]⟩
  · exact ⟨by rw [hie', hready], fun b => by rw [hnvic', hready]⟩

/-! ### Hooks behind the mask (rule R153) -/

/-- No step removes a hook. -/
theorem BankStep.hook_ne_none {b : BankId} {k : Bank} (h : BankStep m s b k) {p : PinId}
    (hs : (s.bank b).hook[p] ≠ none) : k.hook[p] ≠ none := by
  by_cases hne : k.hook[p] = (s.bank b).hook[p]
  · rwa [hne]
  · obtain ⟨r, -, -, -, -, hk⟩ := h.hook_writer hne
    simp [hk]

/-- A requester in G4 was there before with the same latch, or its hook stands in the table. -/
theorem RequesterStep.g4_source (h : RequesterStep s t) {r : Nat} (hr : t.phase r = .g4) :
    (s.phase r = .g4 ∧ t.latch r = s.latch r) ∨ t.latchedHook (t.latch r) ≠ none := by
  cases h with
  | keep hreqs => exact .inl ⟨State.phase_congr hreqs r ▸ hr, State.latch_congr hreqs r⟩
  | enqueue r₀ q q' _ _ _ _ hq hreqs _ _ _ hp' | acquire r₀ q q' hq hreqs _ _ _ _ hp'
  | release r₀ q q' hq hreqs _ _ _ hp' =>
    rcases State.own_or_other hq hreqs r with ⟨-, hph, -⟩ | ⟨hph, hlatch⟩
    · rw [hph, hp'] at hr; cases hr
    · exact .inl ⟨hph ▸ hr, hlatch⟩
  | advance r₀ q q' hq hreqs _ _ _ _ _ _ hhook =>
    rcases State.own_or_other hq hreqs r with ⟨-, hph, hlatch⟩ | ⟨hph, hlatch⟩
    · exact .inr (hlatch ▸ hhook (hph ▸ hr))
    · exact .inl ⟨hph ▸ hr, hlatch⟩

/-- The snapshot of a scan was being scanned before, or is the status register under the mask (rule R151). -/
theorem BankStep.scan_source {b : BankId} {k : Bank} (h : BankStep m s b k) {snapshot : Word} {i : PinId}
    (hd : k.disp = .scan snapshot i) :
    (∃ j, (s.bank b).disp = .scan snapshot j) ∨ snapshot = (s.bank b).isr &&& (s.bank b).imr := by
  cases h with
  | entry => cases hd
  | read => cases hd; exact .inr rfl
  | scan snapshot' j hm hd' =>
    simp only [nextScan] at hd
    split at hd
    · cases hd; exact .inl ⟨j, hd'⟩
    · cases hd
  | _ => exact .inl ⟨i, hd⟩

/-- A pin is unmasked by G4 alone, which follows the installation of its hook, and no hook is ever removed. -/
theorem Fired.hooksBehindMask (h : Fired m s t) (hs : HooksBehindMask s) : HooksBehindMask t := by
  obtain ⟨hmask, hg4, hscan⟩ := hs
  refine ⟨fun b p hp => ?_, fun r hr => ?_, fun b snapshot i hd p hp => ?_⟩
  · apply (h.bankStep b).hook_ne_none
    by_cases hne : (t.bank b).imr.getLsbD p = (s.bank b).imr.getLsbD p
    · exact hmask b p (hne ▸ hp)
    · rcases (h.bankStep b).imr_writer hne with
        ⟨_, _, -, -, -, hclear⟩ | ⟨r, -, rfl, rfl, ⟨-, hclear⟩ | ⟨hr, -⟩⟩
      · exact absurd hp (Bool.eq_false_iff.mp hclear)
      · exact absurd hp (Bool.eq_false_iff.mp hclear)
      · exact hg4 r hr
  · rcases h.requesterStep.g4_source hr with ⟨hr', hlatch⟩ | hhook
    · have hhook : t.latchedHook (s.latch r) ≠ none := (h.bankStep _).hook_ne_none (hg4 r hr')
      show t.latchedHook (t.latch r) ≠ none
      rwa [hlatch]
    · exact hhook
  · apply (h.bankStep b).hook_ne_none
    rcases (h.bankStep b).scan_source hd with ⟨j, hd'⟩ | rfl
    · exact hscan b snapshot j hd' p hp
    · rw [BitVec.getLsbD_and, Bool.and_eq_true] at hp
      exact hmask b p hp.2

/-! ### The engine and the lock holder (rules R103 to R113, R130 to R135) -/

/-- The registers of the engine that `EngineFollowsLock` speaks of. -/
def State.engine (s : State) :
    (Bool × Bool × Bool × Bool) × (Word × Half × Word × Half × Nat) × Option Handle × SpiPhase :=
  ((s.en, s.done, s.sig, s.nvicSpi), (s.tpr, s.tcr, s.rpr, s.rcr, s.infl), s.cb, s.spiH)

/-- What the engine holds while the lock's holder stands in phase `p` with the request `q`. -/
def HolderEngine (s : State) (p : Phase) (q : Latch) : Prop :=
  match p with
  | .t2 => EngineStopped s ∧ s.nvicSpi = false ∧ s.cb = none
  | .t3a => EngineStopped s ∧ s.nvicSpi = false ∧ s.cb = q.cb
  | .t3b => EngineStopped s ∧ s.nvicSpi = false ∧ s.cb = q.cb ∧ JustProgrammed s q
  | .t3c => EngineStopped s ∧ s.nvicSpi = true ∧ s.cb = q.cb ∧ JustProgrammed s q
  | .t4 => TransferRunning s q
  | .t5 => EngineStopped s ∧ s.nvicSpi = false ∧ s.cb = none ∧ AllMoved s q
  | _ => True

/-- The engine while nobody holds the lock. -/
theorem engineFollowsLock_of_free (hl : s.lock = none) :
    EngineFollowsLock s ↔ EngineStopped s ∧ s.nvicSpi = false ∧ s.cb = none := by
  rw [EngineFollowsLock, hl]

/-- The engine while a requester holds the lock. -/
theorem engineFollowsLock_of_held {h : Nat} (hl : s.lock = some h) :
    EngineFollowsLock s ↔ HolderEngine s (s.phase h) (s.latch h) := by
  rw [EngineFollowsLock, hl]
  dsimp only
  cases s.phase h <;> rfl

/-- The engine condition of a phase speaks of the engine's registers alone. -/
theorem HolderEngine.congr (heng : t.engine = s.engine) {p : Phase} {q : Latch} (h : HolderEngine s p q) :
    HolderEngine t p q := by
  simp only [State.engine, Prod.mk.injEq] at heng
  obtain ⟨⟨hen, hdone, hsig, hnvic⟩, ⟨htpr, htcr, hrpr, hrcr, hinfl⟩, hcb, hspiH⟩ := heng
  simp only [HolderEngine, EngineStopped, JustProgrammed, TransferRunning, AllMoved, DescriptorsAt, hen, hdone, hsig,
    hnvic, htpr, htcr, hrpr, hrcr, hinfl, hcb, hspiH] at h ⊢
  exact h

/-- A step that leaves the engine, the lock and the holder keeps the engine in step. -/
theorem EngineFollowsLock.congr (he : EngineFollowsLock s) (heng : t.engine = s.engine) (hlock : t.lock = s.lock)
    (hholder : ∀ h, s.lock = some h → t.phase h = s.phase h ∧ t.latch h = s.latch h) : EngineFollowsLock t := by
  cases hl : s.lock with
  | none =>
    have hstop := HolderEngine.congr (p := .t2) (q := Latch.zero) heng ((engineFollowsLock_of_free hl).mp he)
    exact (engineFollowsLock_of_free (hlock.trans hl)).mpr hstop
  | some h =>
    obtain ⟨hph, hlatch⟩ := hholder h hl
    rw [engineFollowsLock_of_held (hlock.trans hl), hph, hlatch]
    exact ((engineFollowsLock_of_held hl).mp he).congr heng

/-- A step of a requester that does not hold the lock, and that leaves the engine, keeps the engine in step. -/
theorem EngineFollowsLock.of_bystander (he : EngineFollowsLock s) (hx : MutualExclusion s) {r : Nat} {q q' : Requester}
    (hq : s.reqs[r]? = some q) (hfl : q.ph.inFlight = false) (hreqs : t.reqs = s.reqs.set r q')
    (hlock : t.lock = s.lock) (heng : t.engine = s.engine) : EngineFollowsLock t := by
  refine he.congr heng hlock fun h hl => ?_
  have hflight : (s.phase h).inFlight = true := (hx h).mpr hl
  rcases State.own_or_other hq hreqs h with ⟨rfl, -, -⟩ | hsame
  · rw [State.phase_of_get hq, hfl] at hflight
    cases hflight
  · exact hsame

/-- A requester in T2 to T5 holds the lock, and the engine is as its phase says. -/
theorem EngineFollowsLock.holder (he : EngineFollowsLock s) (hx : MutualExclusion s) {r : Nat} {q : Requester}
    (hq : s.reqs[r]? = some q) (hfl : q.ph.inFlight = true) : s.lock = some r ∧ HolderEngine s q.ph q.req := by
  have hl : s.lock = some r := (hx r).mp (by rwa [State.phase_of_get hq])
  refine ⟨hl, ?_⟩
  have hheld := (engineFollowsLock_of_held hl).mp he
  rwa [State.phase_of_get hq, State.latch_of_get hq] at hheld

/-- The engine after a step that sets the requester that holds the lock then. -/
theorem EngineFollowsLock.of_set {r : Nat} {q q' : Requester} (hq : s.reqs[r]? = some q)
    (hreqs : t.reqs = s.reqs.set r q') (hl : t.lock = some r) (h : HolderEngine t q'.ph q'.req) :
    EngineFollowsLock t := by
  rwa [engineFollowsLock_of_held hl, State.phase_of_set hq hreqs, State.latch_of_set hq hreqs, if_pos rfl, if_pos rfl]

/-- An engine that is not stopped serves a started transfer (rules R19, R107, R113). -/
theorem EngineFollowsLock.running (he : EngineFollowsLock s) (hx : MutualExclusion s) (hn : ¬ EngineStopped s) :
    ∃ h, s.lock = some h ∧ s.phase h = .t4 ∧ TransferRunning s (s.latch h) := by
  cases hl : s.lock with
  | none => exact absurd ((engineFollowsLock_of_free hl).mp he).1 hn
  | some h =>
    have hheld := (engineFollowsLock_of_held hl).mp he
    have hfl : (s.phase h).inFlight = true := (hx h).mpr hl
    cases hp : s.phase h <;> rw [hp] at hheld hfl
    case t4 => exact ⟨h, rfl, hp, hheld⟩
    case t2 | t3a | t3b | t3c | t5 => exact absurd hheld.1 hn
    all_goals cases hfl

/-- The engine after a step of the running transfer that leaves the requesters and the lock. -/
theorem EngineFollowsLock.of_running {h : Nat} (hl : t.lock = some h) (hp : t.phase h = .t4)
    (hr : TransferRunning t (t.latch h)) : EngineFollowsLock t := by
  rw [engineFollowsLock_of_held hl, hp]
  exact hr

/-! ### The steps of a running transfer (rules R110, R111, R130 to R135) -/

section
variable {q : Latch}

/-- While words are left to move, no handler runs and the counts of the descriptors agree (rules R35, R111). -/
theorem TransferRunning.moving (hr : TransferRunning s q) (hen : s.en = true) (hleft : s.tcr ≠ 0 ∨ s.rcr ≠ 0) :
    s.spiH = .idle ∧ s.sig = false ∧ s.nvicSpi = true ∧ s.cb = q.cb ∧ s.tcr.toNat + s.infl = s.rcr.toNat ∧
      (s.done = true ↔ s.rcr = 0) ∧ DescriptorsAt s q := by
  have hnot : ¬ AllMoved s q := fun ⟨htcr, hrcr, _⟩ => hleft.elim (absurd htcr) (absurd hrcr)
  cases hi : s.spiH <;> simp only [TransferRunning, hi] at hr
  case idle =>
    split at hr
    · exact absurd hr.1 (by simp [hen])
    · next hsig =>
      obtain ⟨-, hnvic, hcb, hcount, hdone, hdesc⟩ := hr
      exact ⟨rfl, Bool.eq_false_iff.mpr hsig, hnvic, hcb, hcount, hdone, hdesc⟩
  all_goals
    obtain ⟨-, -, -, -, -, hmoved⟩ := hr
    exact absurd hmoved hnot

/-- The running transfer while no handler runs and no signal is posted. -/
theorem transferRunning_idle (hi : s.spiH = .idle) (hsig : s.sig = false) :
    TransferRunning s q ↔
      s.en = true ∧ s.nvicSpi = true ∧ s.cb = q.cb ∧ s.tcr.toNat + s.infl = s.rcr.toNat ∧
        (s.done = true ↔ s.rcr = 0) ∧ DescriptorsAt s q := by
  simp [TransferRunning, hi, hsig]

/-- The running transfer after the handler ended, the signal posted. -/
theorem transferRunning_posted (hi : s.spiH = .idle) (hsig : s.sig = true) :
    TransferRunning s q ↔
      s.en = false ∧ s.nvicSpi = false ∧ s.done = false ∧ s.cb = none ∧ AllMoved s q := by
  simp [TransferRunning, hi, hsig]

/-- A count register above 0 counts down by one. -/
theorem toNat_sub_one {c : Half} (hc : c ≠ 0) : 0 < c.toNat ∧ (c - 1).toNat = c.toNat - 1 := by
  constructor <;> bv_omega

/-- Advancing a pointer by a word keeps it at its descriptor's progress. -/
theorem pointer_advance (a : Word) {n c : Nat} (hc : 0 < c) (hn : c ≤ n) :
    a + BitVec.ofNat 32 (4 * (n - c)) + 4 = a + BitVec.ofNat 32 (4 * (n - (c - 1))) := by
  rw [show 4 * (n - (c - 1)) = 4 * (n - c) + 4 by omega, BitVec.ofNat_add, BitVec.add_assoc]
  rfl

/-- DMA_TX of a running transfer (rule R110). -/
theorem TransferRunning.dmaTx (hr : TransferRunning s q) (hen : s.en = true) (htcr : s.tcr ≠ 0) (trace : List Event) :
    TransferRunning { s with trace := trace, tpr := s.tpr + 4, tcr := s.tcr - 1, infl := s.infl + 1 } q := by
  obtain ⟨hi, hsig, hnvic, hcb, hcount, hdone, htle, hrle, htpr, hrpr⟩ := hr.moving hen (.inl htcr)
  obtain ⟨hpos, hpred⟩ := toNat_sub_one htcr
  refine (transferRunning_idle (by exact hi) (by exact hsig)).mpr ⟨hen, hnvic, hcb, ?_, hdone, ?_, hrle, ?_, hrpr⟩
  · simp only [hpred]; omega
  · simp only [hpred]; omega
  · simp only [hpred]
    rw [htpr, pointer_advance _ hpos htle]

/-- DMA_RX of a running transfer: the last word, and no other, raises `DONE` (rule R111). -/
theorem TransferRunning.dmaRx (hr : TransferRunning s q) (hen : s.en = true) (hrcr : s.rcr ≠ 0) (hinfl : 0 < s.infl)
    (mem : Memory) :
    TransferRunning { s with
      mem := mem, rpr := s.rpr + 4, rcr := s.rcr - 1, infl := s.infl - 1, done := s.done || s.lastReceive } q := by
  obtain ⟨hi, hsig, hnvic, hcb, hcount, hdone, htle, hrle, htpr, hrpr⟩ := hr.moving hen (.inr hrcr)
  obtain ⟨hpos, hpred⟩ := toNat_sub_one hrcr
  have hnotDone : s.done = false := Bool.eq_false_iff.mpr fun hd => hrcr (hdone.mp hd)
  have hlast : s.rcr - 1 = 0 → s.tcr = 0 := fun h0 => by
    have hzero : (s.rcr - 1).toNat = 0 := by rw [h0]; rfl
    exact BitVec.eq_of_toNat_eq (show s.tcr.toNat = 0 by omega)
  refine (transferRunning_idle (by exact hi) (by exact hsig)).mpr ⟨hen, hnvic, hcb, ?_, ?_, htle, ?_, htpr, ?_⟩
  · simp only [hpred]; omega
  · simpa [hnotDone, State.lastReceive] using hlast
  · simp only [hpred]; omega
  · simp only [hpred]
    rw [hrpr, pointer_advance _ hpos hrle]

/-- With nothing left to receive, every word has moved (rules R35, R111). -/
theorem AllMoved.of_counts (hcount : s.tcr.toNat + s.infl = s.rcr.toNat) (hrcr : s.rcr = 0) (hdesc : DescriptorsAt s q) :
    AllMoved s q := by
  have hzero : s.rcr.toNat = 0 := by rw [hrcr]; rfl
  exact ⟨BitVec.eq_of_toNat_eq (show s.tcr.toNat = 0 by omega), hrcr, by omega, hdesc⟩

/-- The handler is entered only when the last word has moved (rules R174, R176). -/
theorem TransferRunning.entry (hr : TransferRunning s q) (hi : s.spiH = .idle) (hdone : s.done = true) :
    TransferRunning { s with spiH := .a } q := by
  cases hsig : s.sig with
  | true =>
    obtain ⟨-, -, hd, -⟩ := (transferRunning_posted hi hsig).mp hr
    exact absurd hdone (by simp [hd])
  | false =>
    obtain ⟨hen, hnvic, hcb, hcount, hd, hdesc⟩ := (transferRunning_idle hi hsig).mp hr
    exact ⟨hen, hnvic, hdone, rfl, hcb, AllMoved.of_counts hcount (hd.mp hdone) hdesc⟩

end

/-! ### The rules keep the engine in step with the lock -/

/-- A step of the handler, with the transfer it serves. -/
theorem Fired.engine_spi (h : Fired .spi s t) (hx : MutualExclusion s) (he : EngineFollowsLock s) :
    EngineFollowsLock t := by
  have serve : ¬ EngineStopped s → t.lock = s.lock → t.reqs = s.reqs →
      (∀ q, TransferRunning s q → TransferRunning t q) → EngineFollowsLock t := by
    intro hn hlock hreqs hstep
    obtain ⟨h, hl, hp, hr⟩ := he.running hx hn
    refine .of_running (hlock.trans hl) (State.phase_congr hreqs h ▸ hp) ?_
    rw [State.latch_congr hreqs]
    exact hstep _ hr
  have active : s.spiH ≠ .idle → ¬ EngineStopped s := fun hi ⟨_, _, _, _, hidle⟩ => hi hidle
  cases h with
  | spiEntry _ hi hentry =>
    have hdone : s.done = true := by
      simp only [State.spiEntryEnabled, State.irqSpi, Bool.and_eq_true] at hentry
      exact hentry.1.1.1.1
    exact serve (fun ⟨_, hd, _⟩ => by simp [hd] at hdone) rfl rfl fun q hr => hr.entry hi hdone
  | spiA _ hi =>
    refine serve (active (by simp [hi])) rfl rfl fun q hr => ?_
    simp only [TransferRunning, hi] at hr
    obtain ⟨hen, hnvic, -, hsig, hcb, hmoved⟩ := hr
    exact ⟨hen, hnvic, rfl, hsig, hcb, hmoved⟩
  | spiB _ hi =>
    refine serve (active (by simp [hi])) rfl rfl fun q hr => ?_
    simp only [TransferRunning, hi] at hr
    obtain ⟨hen, hnvic, hdone, hsig, -, hmoved⟩ := hr
    exact ⟨hen, hnvic, hdone, hsig, rfl, hmoved⟩
  | spiC _ hi =>
    refine serve (active (by simp [hi])) rfl rfl fun q hr => ?_
    simp only [TransferRunning, hi] at hr
    obtain ⟨hen, hnvic, hdone, -, hcb, hmoved⟩ := hr
    exact ⟨hen, hnvic, hdone, rfl, hcb, hmoved⟩
  | spiD1 _ hi =>
    refine serve (active (by simp [hi])) rfl rfl fun q hr => ?_
    simp only [TransferRunning, hi] at hr
    obtain ⟨-, hnvic, hdone, hsig, hcb, hmoved⟩ := hr
    exact ⟨rfl, hnvic, hdone, hsig, hcb, hmoved⟩
  | spiD2 _ hi =>
    refine serve (active (by simp [hi])) rfl rfl fun q hr => ?_
    simp only [TransferRunning, hi] at hr
    obtain ⟨hen, -, hdone, hsig, hcb, hmoved⟩ := hr
    exact (transferRunning_posted rfl (by exact hsig)).mpr ⟨hen, rfl, hdone, hcb, hmoved⟩

/-- The holder's own steps and the engine's advance the engine with the holder's phase; every other step is a
bystander's. -/
theorem Fired.engineFollowsLock (h : Fired m s t) (hx : MutualExclusion s) (ha : RequestsAccepted s)
    (he : EngineFollowsLock s) : EngineFollowsLock t := by
  by_cases hspi : m = .spi
  · exact Fired.engine_spi (hspi ▸ h) hx he
  cases h with
  | spiEntry | spiA | spiB | spiC | spiD1 | spiD2 => exact absurd rfl hspi
  | t1 _ r q hq hp _ hm =>
    exact .of_set hq rfl rfl ((engineFollowsLock_of_free (mayAcquire_lock hm)).mp he)
  | t2 _ r q hq hp =>
    obtain ⟨hl, hheld⟩ := he.holder hx hq (by rw [hp]; rfl)
    rw [hp] at hheld
    obtain ⟨hstop, hnvic, -⟩ := hheld
    exact .of_set hq rfl hl ⟨hstop, hnvic, rfl⟩
  | t3a _ r q hq hp =>
    obtain ⟨hl, hheld⟩ := he.holder hx hq (by rw [hp]; rfl)
    rw [hp] at hheld
    obtain ⟨hstop, hnvic, hcb⟩ := hheld
    exact .of_set hq rfl hl ⟨hstop, hnvic, hcb, rfl, rfl, by simp [DescriptorsAt]⟩
  | t3b _ r q hq hp =>
    obtain ⟨hl, hheld⟩ := he.holder hx hq (by rw [hp]; rfl)
    rw [hp] at hheld
    obtain ⟨hstop, -, hcb, hprog⟩ := hheld
    exact .of_set hq rfl hl ⟨hstop, rfl, hcb, hprog⟩
  | t3c _ r q hq hp =>
    obtain ⟨hl, hheld⟩ := he.holder hx hq (by rw [hp]; rfl)
    rw [hp] at hheld
    obtain ⟨⟨-, hdone, hsig, hinfl, hi⟩, hnvic, hcb, htcr, hrcr, hdesc⟩ := hheld
    obtain ⟨-, hn0, -⟩ := ha r (by rw [State.phase_of_get hq, hp]; rfl)
    rw [State.latch_of_get hq, ← hrcr] at hn0
    refine .of_set hq rfl hl ((transferRunning_idle (by exact hi) (by exact hsig)).mpr ⟨rfl, hnvic, hcb, ?_, ?_, hdesc⟩)
    · simp [htcr, hrcr, hinfl]
    · simpa [hdone] using hn0
  | t4 _ r q hq hp hh hsig =>
    obtain ⟨hl, hheld⟩ := he.holder hx hq (by rw [hp]; rfl)
    rw [hp] at hheld
    have hi : s.spiH = .idle := (handlerActive_eq_false.mp hh).1
    obtain ⟨hen, hnvic, hdone, hcb, hmoved⟩ := (transferRunning_posted hi hsig).mp hheld
    have hinfl : s.infl = 0 := hmoved.2.2.1
    exact .of_set hq rfl hl ⟨⟨hen, hdone, rfl, hinfl, hi⟩, hnvic, hcb, hmoved⟩
  | t5 _ r q hq hp =>
    obtain ⟨-, hheld⟩ := he.holder hx hq (by rw [hp]; rfl)
    rw [hp] at hheld
    obtain ⟨hstop, hnvic, hcb, -⟩ := hheld
    exact (engineFollowsLock_of_free rfl).mpr ⟨hstop, hnvic, hcb⟩
  | dmaTx _ hen htcr =>
    obtain ⟨h, hl, hp, hr⟩ := he.running hx (fun ⟨hstop, _⟩ => by simp [hstop] at hen)
    exact .of_running hl hp (hr.dmaTx hen htcr _)
  | dmaRx _ draw hen hrcr hinfl =>
    obtain ⟨h, hl, hp, hr⟩ := he.running hx (fun ⟨hstop, _⟩ => by simp [hstop] at hen)
    exact .of_running hl hp (hr.dmaRx hen hrcr hinfl _)
  | respond _ r q _ _ _ _ _ _ hq hp | init _ r q _ _ hq hp | t0 _ r q _ _ _ _ _ _ hq hp
  | g0 _ r q _ _ _ _ _ _ _ hq hp | unregister _ r q _ _ _ _ _ hq hp | load _ r q _ _ _ hq hp
  | store _ r q _ _ _ _ hq hp | g1 _ r q hq hp | g2 _ r q hq hp | g3 _ r q hq hp | g4 _ r q hq hp =>
    exact he.of_bystander hx hq (by rw [hp]; rfl) rfl rfl rfl
  | gpioEntry | gpioRead | gpioScan | pin => exact he.congr rfl rfl fun _ _ => ⟨rfl, rfl⟩

/-! ### The whole invariant -/

/-- The parts of the invariant, each kept by its own lemma. -/
theorem Fired.systemInv (h : Fired m s t) (hs : SystemInv s) : SystemInv t where
  parameters := h.cfg_eq ▸ hs.parameters
  memory := h.wf_mem hs.memory
  exclusion := h.requesterStep.mutualExclusion hs.exclusion
  waiters := h.requesterStep.waitersListed hs.waiters
  requests := h.requestsAccepted hs.parameters hs.requests
  enables := h.enablesAgree hs.enables
  engine := h.engineFollowsLock hs.exclusion hs.requests hs.engine
  hooks := h.hooksBehindMask hs.hooks

/-- Settles O44: each part of the invariant is kept by every rule, some with the help of the others. -/
theorem systemInvariantKept : Obligations.SystemInvariantKept := by
  intro s t hs hstep
  refine step_keeps ?_ Fired.systemInv hs hstep
  exact fun h => ⟨h.parameters, h.memory, h.exclusion, h.waiters, h.requests, h.enables, h.engine, h.hooks⟩

end Sys2Proof.Machine
end

section
/-! PROOFS of the statements that cite `20_memory.md`: the byte order of `MEM` (rule R50), a requester's own accesses,
the steps of the DMA data mover and its runs over whole buffers (rules R110 to R113), where its accesses lie (rules R53,
R54), the release of the lock (rules R58, R59, R109), and what can stop the machine. -/

namespace Sys2Proof.Machine

variable {s t : State} {m : Move}

/-! ### The byte order of memory (rule R50) -/

/-- The bytes of one access are different bytes. -/
theorem byteAddr_inj {a : Word} {j k : Nat} (hj : j < 4) (hk : k < 4) : byteAddr a j = byteAddr a k ↔ j = k := by
  refine ⟨fun h => ?_, fun h => h ▸ rfl⟩
  have hoffset : BitVec.ofNat 32 j = BitVec.ofNat 32 k := (BitVec.add_right_inj a).mp (BitVec.eq_of_toNat_eq h)
  have hmod := congrArg BitVec.toNat hoffset
  simp only [BitVec.toNat_ofNat] at hmod
  omega

/-- Each byte of a requester's own store holds its bits of the value. -/
theorem Memory.readByte_store {m : Memory} (hm : Memory.wf m) {width : Width} (a v : Word) {k : Nat}
    (hk : k < width.bytes) : (m.store width a v).readByte (byteAddr a k) = v.extractLsb' (8 * k) 8 := by
  have h0 := Memory.wf_writeByte hm (byteAddr_lt a 0) (v.extractLsb' 0 8)
  have h1 := Memory.wf_writeByte h0 (byteAddr_lt a 1) (v.extractLsb' 8 8)
  have h2 := Memory.wf_writeByte h1 (byteAddr_lt a 2) (v.extractLsb' 16 8)
  cases width with
  | byte =>
    rw [Memory.store, Memory.readByte_writeByte _ hm.1]
    obtain rfl : k = 0 := by simp only [Width.bytes] at hk; omega
    simp
  | half =>
    rw [Memory.store, Memory.readByte_writeByte _ h0.1, Memory.readByte_writeByte _ hm.1]
    simp only [Width.bytes] at hk
    interval_cases k <;> simp [byteAddr_inj]
  | word =>
    rw [Memory.store, Memory.writeWord, Memory.readByte_writeByte _ h2.1, Memory.readByte_writeByte _ h1.1,
      Memory.readByte_writeByte _ h0.1, Memory.readByte_writeByte _ hm.1]
    simp only [Width.bytes] at hk
    interval_cases k <;> simp [byteAddr_inj]

/-- The bytes of a value with one more byte below it. -/
theorem extractLsb'_append_byte {w : Nat} (x : BitVec w) (y : Byte) (k : Nat) :
    (x ++ y).extractLsb' (8 * k) 8 = if k = 0 then y else x.extractLsb' (8 * (k - 1)) 8 := by
  split
  · next h => rw [h]; exact BitVec.extractLsb'_append_eq_right
  · rw [BitVec.extractLsb'_append_eq_of_le (by omega), show 8 * k - 8 = 8 * (k - 1) by omega]

/-- One byte has no bytes above it. -/
theorem extractLsb'_byte (y : Byte) (k : Nat) : y.extractLsb' (8 * k) 8 = if k = 0 then y else 0 := by
  split
  · next h => rw [h]; exact BitVec.extractLsb'_eq_self
  · apply BitVec.eq_of_getLsbD_eq
    intro i hi
    simp [BitVec.getLsbD_of_ge y (8 * k + i) (by omega)]

/-- Each byte of a requester's own read is the byte of memory there, and 0 past the access's width. -/
theorem Memory.extractLsb'_load (m : Memory) (width : Width) (a : Word) {k : Nat} (hk : k < 4) :
    (m.load width a).extractLsb' (8 * k) 8 = if k < width.bytes then m.readByte (byteAddr a k) else 0 := by
  have hfits : 8 * k + 8 ≤ 32 := by omega
  cases width with
  | byte =>
    rw [Memory.load, BitVec.extractLsb'_setWidth_of_le hfits, extractLsb'_byte]
    interval_cases k <;> rfl
  | half =>
    rw [Memory.load, BitVec.extractLsb'_setWidth_of_le hfits, extractLsb'_append_byte, extractLsb'_byte]
    interval_cases k <;> rfl
  | word =>
    rw [Memory.load, Memory.readWord, extractLsb'_append_byte, extractLsb'_append_byte, extractLsb'_append_byte,
      extractLsb'_byte]
    interval_cases k <;> rfl

/-- A word is its four bytes. -/
theorem word_ext_bytes {v w : Word} (h : ∀ k < 4, v.extractLsb' (8 * k) 8 = w.extractLsb' (8 * k) 8) : v = w := by
  apply BitVec.eq_of_getLsbD_eq
  intro i hi
  have hbit := congrArg (·.getLsbD (i % 8)) (h (i / 8) (by omega))
  simpa [BitVec.getLsbD_extractLsb', Nat.mod_lt, Nat.div_add_mod] using hbit

/-- A stored word reads back. -/
theorem Memory.readWord_writeWord {m : Memory} (hm : Memory.wf m) (a v : Word) : (m.writeWord a v).readWord a = v :=
  word_ext_bytes fun k hk => by
    calc ((m.store .word a v).load .word a).extractLsb' (8 * k) 8
        = (m.store .word a v).readByte (byteAddr a k) := (Memory.extractLsb'_load _ _ _ hk).trans (if_pos hk)
      _ = v.extractLsb' (8 * k) 8 := Memory.readByte_store hm a v hk

/-- Settles O22: a word is stored and read as an access of four bytes, and each width has one law for its bytes, one for
the bytes outside and one for the value read. -/
theorem wordsAreLittleEndian : Obligations.WordsAreLittleEndian := by
  intro m a v hm
  refine ⟨fun k hk => Memory.readByte_store (width := .word) hm a v hk,
    fun x hx => Memory.readByte_writeWord_ne hm a v x hx, fun k hk => ?_, Memory.readWord_writeWord hm a v,
    fun width => ⟨fun k hk => Memory.readByte_store hm a v hk,
      fun x hx => Memory.readByte_store_ne hm width a v x hx, fun k hk => Memory.extractLsb'_load m width a hk⟩⟩
  exact (Memory.extractLsb'_load m .word a hk).trans (if_pos hk)

/-! ### A requester's own accesses (rules R50, R54) -/

/-- The step of an IDLE requester runs the next item of its script (rules R4, R230). -/
theorem step_item {r : Nat} {q : Requester} {item : Item} {items : List Item} {rest : List Move}
    (hm : s.moves = .task r :: rest) (hh : s.handlerActive = false) (hq : s.reqs[r]? = some q) (hp : q.ph = .idle)
    (hs : q.script = item :: items) : step s = issueItem r item items { s with moves := rest } := by
  have henabled : State.enabled { s with moves := rest } (.task r) = true :=
    (taskEnabled_of (s := { s with moves := rest }) hq hh).trans (by simp [hp, hs])
  rw [step_cons hm, runMove_enabled henabled]
  simp [fire, taskStep, hq, hp, hs]

/-- Every byte of an access is mapped (rule R54). -/
theorem accessMapped_iff {width : Width} {a : Word} :
    accessMapped s width a = true ↔ ∀ k < width.bytes, isMapped s.cfg (byteAddr a k) = true := by
  simp [accessMapped]

/-- Settles O23: the requester's step runs the access, which tests its bytes first. -/
theorem requesterOwnAccess : Obligations.RequesterOwnAccess := by
  intro s r q width a v items rest hm hh hq hp mapped
  have hmapped : accessMapped { s with moves := rest } width a = true ↔ mapped := accessMapped_iff
  have hmod := State.modReq_eq_set (s := { s with moves := rest }) hq
  refine ⟨fun hs h => ?_, fun hs h => ?_, fun hs h => ?_⟩
  · rw [step_item hm hh hq hp hs, issueItem, if_pos (hmapped.mpr h), hmod]
  · rw [step_item hm hh hq hp hs, issueItem, if_pos (hmapped.mpr h), hmod]
  · rcases hs with hs | hs <;> rw [step_item hm hh hq hp hs, issueItem, if_neg (mt hmapped.mp h)]

/-! ### The steps of the DMA data mover (rules R110, R111, R113) -/

/-- An instruction decoded from a control word is the transmission of that word (rules R93, R110). -/
theorem exec_of_controlWord {w : Word} {i : Instr} (hd : decode (.controlWord w) = .instr i) (s : State) :
    exec i s = moveControlWord w s := by
  simp only [decode, decodeWord] at hd
  split at hd
  · cases hd
  · next l cs td hcw =>
    obtain ⟨bits, hroute, rfl⟩ := decodeControlWord_some hcw
    rcases route_some hroute with ⟨rfl, rfl⟩ | ⟨rfl, rfl⟩ | ⟨rfl, rfl⟩ | ⟨rfl, rfl⟩ <;> (cases hd; rfl)

/-- The enabled DMA_TX step transmits the word at `TPR`, well-formed or reserved (rules R75, R110). -/
theorem dmaTxStep_eq (h : s.dmaTxEnabled = true) : dmaTxStep s = .next (dmaTransmit (s.mem.readWord s.tpr) s) := by
  unfold dmaTxStep
  cases hd : decode (.controlWord (s.mem.readWord s.tpr)) with
  | reserved why => rfl
  | instr i => exact (exec_of_controlWord hd s).trans (if_pos h)

/-- DMA_TX is enabled while the engine runs with words left to transmit (rule R110). -/
theorem dmaTxEnabled_iff : s.dmaTxEnabled = true ↔ s.en = true ∧ s.tcr ≠ 0 := by
  simp [State.dmaTxEnabled]

/-- DMA_RX is enabled while the engine runs with words left to receive and one in flight (rule R111). -/
theorem dmaRxEnabled_iff : s.dmaRxEnabled = true ↔ s.en = true ∧ s.rcr ≠ 0 ∧ 0 < s.infl := by
  simp [State.dmaRxEnabled, and_assoc]

/-- Settles O19: the step of the enabled DMA_TX is the decoded instruction. -/
theorem stepRunsDecodedControlWord : Obligations.StepRunsDecodedControlWord := by
  intro s i rest hm hen htcr hd
  have henabled : State.enabled { s with moves := rest } .dmaTx = true :=
    dmaTxEnabled_iff.mpr ⟨hen, htcr⟩
  rw [step_cons hm, runMove_enabled henabled]
  simp only [fire, dmaTxStep, hd]

/-- The step of the enabled DMA_TX (rule R110). -/
theorem step_dmaTx {rest : List Move} (hm : s.moves = .dmaTx :: rest) (hen : s.en = true) (htcr : s.tcr ≠ 0) :
    step s = .next { s with
      moves := rest, trace := s.trace ++ [.spiTx (s.mem.readWord s.tpr)]
      tpr := s.tpr + 4, tcr := s.tcr - 1, infl := s.infl + 1 } := by
  have henabled : State.enabled { s with moves := rest } .dmaTx = true :=
    dmaTxEnabled_iff.mpr ⟨hen, htcr⟩
  rw [step_cons hm, runMove_enabled henabled]
  exact dmaTxStep_eq henabled

/-- The step of the enabled DMA_RX (rule R111). -/
theorem step_dmaRx {draw : Word} {rest : List Move} (hm : s.moves = .dmaRx draw :: rest) (hen : s.en = true)
    (hrcr : s.rcr ≠ 0) (hinfl : 0 < s.infl) :
    step s = .next { s with
      moves := rest, mem := s.mem.writeWord s.rpr draw
      rpr := s.rpr + 4, rcr := s.rcr - 1, infl := s.infl - 1, done := s.done || s.lastReceive } := by
  have henabled : State.enabled { s with moves := rest } (.dmaRx draw) = true :=
    dmaRxEnabled_iff.mpr ⟨hen, hrcr, hinfl⟩
  rw [step_cons hm, runMove_enabled henabled]
  rfl

/-- The word that DMA_RX receives is the last of the transfer (rule R111). -/
theorem lastReceive_iff : s.lastReceive = true ↔ s.rcr = 1 ∧ s.tcr = 0 := by
  have hlast : s.rcr - 1 = 0 ↔ s.rcr = 1 := by bv_omega
  rw [State.lastReceive, Bool.and_eq_true, decide_eq_true_eq, decide_eq_true_eq, hlast]

/-- Settles O21: enabled, DMA_RX stores the word and tests for the last one; blocked, it leaves everything. -/
theorem dmaRxStoresDrawnWord : Obligations.DmaRxStoresDrawnWord := by
  intro s draw rest hm
  refine ⟨fun hen hrcr hinfl => ?_, fun hblocked => ?_⟩
  · have hdone : (s.done || s.lastReceive) = if s.rcr = 1 ∧ s.tcr = 0 then true else s.done := by
      by_cases h : s.rcr = 1 ∧ s.tcr = 0
      · rw [if_pos h, lastReceive_iff.mpr h, Bool.or_true]
      · rw [if_neg h, Bool.eq_false_iff.mpr (mt lastReceive_iff.mp h), Bool.or_false]
    rw [step_dmaRx hm hen hrcr hinfl, hdone]
  · have hoff : State.enabled { s with moves := rest } (.dmaRx draw) = false := by
      refine Bool.eq_false_iff.mpr fun h => ?_
      obtain ⟨hen, hrcr, hinfl⟩ := dmaRxEnabled_iff.mp h
      rcases hblocked with h | h | h
      · simp [h] at hen
      · exact hrcr h
      · exact absurd h hinfl.ne'
    rw [step_cons hm, runMove_blocked hoff]

/-! ### Words stored one after the other (rules R50, R53) -/

/-- The words `ds` stored one after the other from address `a` on. -/
def Memory.writeWords (m : Memory) (a : Word) (ds : List Word) : Memory :=
  ds.zipIdx.foldl (fun m d => m.writeWord (a + BitVec.ofNat 32 (4 * d.2)) d.1) m

@[simp] theorem Memory.writeWords_nil (m : Memory) (a : Word) : m.writeWords a [] = m := rfl

/-- One more word goes behind the words already stored. -/
theorem Memory.writeWords_concat (m : Memory) (a : Word) (ds : List Word) (v : Word) :
    m.writeWords a (ds ++ [v]) = (m.writeWords a ds).writeWord (a + BitVec.ofNat 32 (4 * ds.length)) v := by
  simp [Memory.writeWords, List.zipIdx_append]

/-- Storing words keeps the canonical form. -/
theorem Memory.wf_writeWords {m : Memory} (hm : Memory.wf m) (a : Word) (ds : List Word) :
    Memory.wf (m.writeWords a ds) := by
  induction ds using List.reverseRecOn with
  | nil => exact hm
  | append_singleton ds v ih => rw [Memory.writeWords_concat]; exact Memory.wf_writeWord ih _ _

/-- The bytes of word `k` of a region that does not pass the top of the address space. -/
theorem byteAddr_word {a : Word} {n k j : Nat} (hfits : a.toNat + 4 * n ≤ 2 ^ 32) (hk : k < n) (hj : j < 4) :
    byteAddr (a + BitVec.ofNat 32 (4 * k)) j = a.toNat + 4 * k + j := by
  simp only [byteAddr, BitVec.toNat_add, BitVec.toNat_ofNat]
  omega

/-- A byte outside the region of the stored words reads as before. -/
theorem Memory.readByte_writeWords_ne {m : Memory} (hm : Memory.wf m) {a : Word} {ds : List Word} {x : Nat}
    (hfits : a.toNat + 4 * ds.length ≤ 2 ^ 32) (hx : x < a.toNat ∨ a.toNat + 4 * ds.length ≤ x) :
    (m.writeWords a ds).readByte x = m.readByte x := by
  induction ds using List.reverseRecOn with
  | nil => rfl
  | append_singleton ds v ih =>
    rw [List.length_append, List.length_singleton] at hfits hx
    rw [Memory.writeWords_concat, Memory.readByte_writeWord_ne (Memory.wf_writeWords hm a ds)]
    · exact ih (by omega) (by omega)
    · intro j hj
      rw [byteAddr_word hfits (Nat.lt_succ_self _) hj]
      omega

/-- A word whose bytes read as in another memory reads as there. -/
theorem Memory.readWord_congr {m m' : Memory} {a : Word}
    (h : ∀ k < 4, m'.readByte (byteAddr a k) = m.readByte (byteAddr a k)) : m'.readWord a = m.readWord a := by
  simp [Memory.readWord, h]

/-- Every stored word reads back. -/
theorem Memory.readWord_writeWords {m : Memory} (hm : Memory.wf m) {a : Word} {ds : List Word}
    (hfits : a.toNat + 4 * ds.length ≤ 2 ^ 32) {k : Nat} {v : Word} (hk : ds[k]? = some v) :
    (m.writeWords a ds).readWord (a + BitVec.ofNat 32 (4 * k)) = v := by
  induction ds using List.reverseRecOn with
  | nil => simp at hk
  | append_singleton ds w ih =>
    have hwf := Memory.wf_writeWords hm a ds
    rw [List.length_append, List.length_singleton] at hfits
    rw [Memory.writeWords_concat]
    by_cases hlast : k = ds.length
    · subst hlast
      obtain rfl : w = v := by simpa using hk
      exact Memory.readWord_writeWord hwf _ _
    · have hlt : k < ds.length := by
        have := (List.getElem?_eq_some_iff.mp hk).1
        rw [List.length_append, List.length_singleton] at this
        omega
      rw [List.getElem?_append_left hlt] at hk
      rw [← ih (by omega) hk]
      refine Memory.readWord_congr fun j hj => Memory.readByte_writeWord_ne hwf _ _ _ fun j' hj' => ?_
      rw [byteAddr_word hfits (by omega) hj, byteAddr_word hfits (Nat.lt_succ_self _) hj']
      omega

/-! ### The data mover over whole buffers (rules R53, R110 to R112) -/

/-- The events of the first `i` words leaving the transmit region, in buffer order (rule R110). -/
def State.sentWords (s : State) (i : Nat) : List Event :=
  (List.range i).map fun k => .spiTx (s.mem.readWord (s.tpr + BitVec.ofNat 32 (4 * k)))

/-- The engine of `s`, with nothing in flight there, after `i` words left and the words `ds` came in. -/
def State.movedWords (s : State) (i : Nat) (ds : List Word) : State :=
  { s with
    mem := s.mem.writeWords s.rpr ds
    trace := s.trace ++ s.sentWords i
    tpr := s.tpr + BitVec.ofNat 32 (4 * i)
    tcr := s.tcr - BitVec.ofNat 16 i
    rpr := s.rpr + BitVec.ofNat 32 (4 * ds.length)
    rcr := s.rcr - BitVec.ofNat 16 ds.length
    infl := i - ds.length
    done := s.done || decide (ds.length = s.rcr.toNat) }

/-- The engine runs with both descriptors at buffers of `n` words that do not overlap, and nothing in flight. -/
structure MoverReady (s : State) (n : Nat) : Prop where
  memory   : Memory.wf s.mem
  running  : s.en = true
  idle     : s.infl = 0
  transmit : s.tcr.toNat = n
  receive  : s.rcr.toNat = n
  nonempty : n ≠ 0
  txFits   : s.tpr.toNat + 4 * n ≤ 2 ^ 32
  rxFits   : s.rpr.toNat + 4 * n ≤ 2 ^ 32
  disjoint : s.tpr.toNat + 4 * n ≤ s.rpr.toNat ∨ s.rpr.toNat + 4 * n ≤ s.tpr.toNat

/-- A count register after `i` words. -/
theorem toNat_sub_ofNat {c : Half} {i : Nat} (h : i ≤ c.toNat) : (c - BitVec.ofNat 16 i).toNat = c.toNat - i := by
  have := c.isLt
  rw [BitVec.toNat_sub_of_le] <;> simp only [BitVec.le_def, BitVec.toNat_ofNat] <;> omega

/-- A count register while words are left. -/
theorem sub_ofNat_ne_zero {c : Half} {i : Nat} (h : i < c.toNat) : c - BitVec.ofNat 16 i ≠ 0 := by
  intro h0
  have hleft := toNat_sub_ofNat h.le
  rw [h0] at hleft
  exact Nat.sub_ne_zero_of_lt h hleft.symm

/-- One more word off a count register. -/
theorem sub_ofNat_succ (c : Half) (i : Nat) : c - BitVec.ofNat 16 i - 1#16 = c - BitVec.ofNat 16 (i + 1) := by
  rw [BitVec.ofNat_add]
  exact sub_sub c _ _

/-- One more word past a pointer. -/
theorem add_ofNat_succ (a : Word) (i : Nat) :
    a + BitVec.ofNat 32 (4 * i) + 4#32 = a + BitVec.ofNat 32 (4 * (i + 1)) := by
  simpa using pointer_advance a (n := i + 1) (c := 1) Nat.one_pos (by omega)

/-- Before any word moved. -/
theorem MoverReady.movedWords_zero {n : Nat} (hr : MoverReady s n) : s.movedWords 0 [] = s := by
  have hne : 0 ≠ s.rcr.toNat := by rw [hr.receive]; exact hr.nonempty.symm
  have hempty : { s with infl := 0 } = s := by rw [← hr.idle]
  simpa [State.movedWords, State.sentWords, hne] using hempty

/-- The words received so far leave the transmit region as it was. -/
theorem MoverReady.readWord_movedWords {n i : Nat} {ds : List Word} (hr : MoverReady s n) (hi : i < n)
    (hds : ds.length ≤ n) :
    (s.mem.writeWords s.rpr ds).readWord (s.tpr + BitVec.ofNat 32 (4 * i)) =
      s.mem.readWord (s.tpr + BitVec.ofNat 32 (4 * i)) := by
  have htx := hr.txFits
  have hrx := hr.rxFits
  have hdisjoint := hr.disjoint
  refine Memory.readWord_congr fun j hj => Memory.readByte_writeWords_ne hr.memory (by omega) ?_
  rw [byteAddr_word htx hi hj]
  omega

/-- One more word leaves (rule R110). -/
theorem MoverReady.step_transmit {n i : Nat} {ds : List Word} (hr : MoverReady s n) (hi : i < n) (hds : ds.length ≤ i)
    (rest : List Move) :
    step { s.movedWords i ds with moves := .dmaTx :: rest } = .next { s.movedWords (i + 1) ds with moves := rest } := by
  have hleft : s.tcr - BitVec.ofNat 16 i ≠ 0 := sub_ofNat_ne_zero (by rw [hr.transmit]; exact hi)
  refine (step_dmaTx (s := { s.movedWords i ds with moves := .dmaTx :: rest }) rfl hr.running hleft).trans
    (congrArg _ ?_)
  simp [State.movedWords, State.sentWords, List.range_succ, hr.readWord_movedWords hi (hds.trans hi.le),
    Nat.sub_add_comm hds, add_ofNat_succ, sub_ofNat_succ]

/-- One more word comes in; the last one sets `DONE` (rule R111). -/
theorem MoverReady.step_receive {n i : Nat} {ds : List Word} (hr : MoverReady s n) (hi : i ≤ n) (hds : ds.length < i)
    (v : Word) (rest : List Move) :
    step { s.movedWords i ds with moves := .dmaRx v :: rest } =
      .next { s.movedWords i (ds ++ [v]) with moves := rest } := by
  have htcr : (s.tcr - BitVec.ofNat 16 i).toNat = n - i := by
    rw [toNat_sub_ofNat (by rw [hr.transmit]; exact hi), hr.transmit]
  have hrcr : (s.rcr - BitVec.ofNat 16 ds.length).toNat = n - ds.length := by
    rw [toNat_sub_ofNat (by rw [hr.receive]; omega), hr.receive]
  have hleft : s.rcr - BitVec.ofNat 16 ds.length ≠ 0 := sub_ofNat_ne_zero (by rw [hr.receive]; omega)
  have hlast : State.lastReceive { s.movedWords i ds with moves := .dmaRx v :: rest } = decide (ds.length + 1 = n) := by
    rw [Bool.eq_iff_iff, lastReceive_iff, decide_eq_true_eq]
    simp only [State.movedWords, ← BitVec.toNat_inj, htcr, hrcr]
    simp
    omega
  have hnot : ds.length ≠ n := by omega
  refine (step_dmaRx (s := { s.movedWords i ds with moves := .dmaRx v :: rest }) rfl hr.running hleft
    (Nat.sub_pos_of_lt hds)).trans (congrArg _ ?_)
  rw [hlast]
  simp [State.movedWords, State.sentWords, Memory.writeWords_concat, Nat.sub_sub, hr.receive, hnot,
    add_ofNat_succ, sub_ofNat_succ]

/-- DMA_TX draws no word. -/
@[simp] theorem filterMap_drawnWord_dmaTx (l : List Move) :
    (.dmaTx :: l : List Move).filterMap drawnWord = l.filterMap drawnWord :=
  List.filterMap_cons_none rfl

/-- DMA_RX draws its word (rule R56). -/
@[simp] theorem filterMap_drawnWord_dmaRx (v : Word) (l : List Move) :
    (.dmaRx v :: l : List Move).filterMap drawnWord = v :: l.filterMap drawnWord :=
  List.filterMap_cons_some rfl

/-- With `i` words out and `j` in, no DMA_RX of the schedule comes before the DMA_TX it answers (rule R35). -/
def ReceivesFollow (schedule : List Move) (i j : Nat) : Prop :=
  ∀ k, j + ((schedule.take k).filterMap drawnWord).length ≤ i + (schedule.take k).count .dmaTx

/-- At no time are more words in than out. -/
theorem ReceivesFollow.le {schedule : List Move} {i j : Nat} (h : ReceivesFollow schedule i j) : j ≤ i := by
  simpa using h 0

/-- After a DMA_TX one more word is out. -/
theorem ReceivesFollow.of_dmaTx {schedule : List Move} {i j : Nat} (h : ReceivesFollow (.dmaTx :: schedule) i j) :
    ReceivesFollow schedule (i + 1) j := by
  intro k
  have htake := h (k + 1)
  rw [List.take_succ_cons, filterMap_drawnWord_dmaTx, List.count_cons_self] at htake
  omega

/-- After a DMA_RX one more word is in. -/
theorem ReceivesFollow.of_dmaRx {schedule : List Move} {v : Word} {i j : Nat}
    (h : ReceivesFollow (.dmaRx v :: schedule) i j) : ReceivesFollow schedule i (j + 1) := by
  intro k
  have htake := h (k + 1)
  rw [List.take_succ_cons, filterMap_drawnWord_dmaRx, List.length_cons, List.count_cons_of_ne (by simp)] at htake
  omega

/-- Both steps in any order in which the `k`-th DMA_RX comes after the `k`-th DMA_TX, from `i` words out and `ds` in. -/
theorem MoverReady.run_schedule {n : Nat} (hr : MoverReady s n) (rest schedule : List Move) (i : Nat)
    (ds : List Word) (hmoves : ∀ m ∈ schedule, m = .dmaTx ∨ ∃ v, m = .dmaRx v)
    (hcount : i + schedule.count .dmaTx ≤ n) (hfollow : ReceivesFollow schedule i ds.length) :
    Host.Core.run Sys2Proof.core schedule.length { s.movedWords i ds with moves := schedule ++ rest } =
      .next { s.movedWords (i + schedule.count .dmaTx) (ds ++ schedule.filterMap drawnWord) with moves := rest } := by
  induction schedule generalizing i ds with
  | nil => simp [Host.Core.run]
  | cons m schedule ih =>
    have htail : ∀ m ∈ schedule, m = .dmaTx ∨ ∃ v, m = .dmaRx v := fun m hm => hmoves m (List.mem_cons_of_mem _ hm)
    rcases hmoves m List.mem_cons_self with rfl | ⟨v, rfl⟩
    · rw [List.count_cons_self] at hcount
      have hstep := hr.step_transmit (by omega) hfollow.le (schedule ++ rest)
      rw [List.length_cons, List.cons_append, run_succ _ _ _ hstep, ih (i + 1) ds htail (by omega) hfollow.of_dmaTx,
        List.count_cons_self, filterMap_drawnWord_dmaTx, Nat.add_assoc, Nat.add_comm 1]
    · rw [List.count_cons_of_ne (by simp)] at hcount
      have hstep := hr.step_receive (by omega) hfollow.of_dmaRx.le v (schedule ++ rest)
      rw [List.length_cons, List.cons_append, run_succ _ _ _ hstep,
        ih i (ds ++ [v]) htail hcount (by simpa using hfollow.of_dmaRx), List.count_cons_of_ne (by simp),
        filterMap_drawnWord_dmaRx, List.append_assoc, List.singleton_append]

/-- A whole run of the data mover, with the whole state after it. -/
theorem MoverReady.run_dmaSchedule {schedule : List Move} {draws : List Word} {rest : List Move}
    (hr : MoverReady s draws.length) (hsched : DmaSchedule schedule draws) (hm : s.moves = schedule ++ rest) :
    Host.Core.run Sys2Proof.core schedule.length s =
      .next { s.movedWords draws.length draws with moves := rest } := by
  obtain ⟨hmoves, hdraws, hcount, horder⟩ := hsched
  have hrun := hr.run_schedule rest schedule 0 [] hmoves (by omega) (by simpa [ReceivesFollow] using horder)
  rw [hr.movedWords_zero, ← hm, hdraws, hcount, Nat.zero_add, List.nil_append] at hrun
  exact hrun

/-- Settles O38: by induction over the schedule the state after `i` words out and `j` words in is that of
`State.movedWords`, read here after all the words. -/
theorem dmaMovesWholeBuffers : Obligations.DmaMovesWholeBuffers := by
  intro s schedule draws rest hwf hen hinfl hsame hlen hne htx hrx hdisjoint hsched hm
  have hrcr : s.rcr.toNat = draws.length := by rw [← hsame, hlen]
  have hready : MoverReady s draws.length :=
    ⟨hwf, hen, hinfl, hlen.symm, hrcr, hlen ▸ (toNat_sub_one hne).1.ne', htx, hrx, hdisjoint⟩
  refine ⟨_, hready.run_dmaSchedule hsched hm, rfl, fun k v hk => Memory.readWord_writeWords hwf hrx hk,
    fun a ha => Memory.readByte_writeWords_ne hwf hrx ha, rfl, rfl, ?_, ?_, Nat.sub_self _, ?_, rfl⟩
  · simp [State.movedWords, hlen]
  · simp [State.movedWords, ← hrcr]
  · simp [State.movedWords, hrcr]

/-! ### Where the DMA accesses lie (rules R53, R54, R112) -/

/-- A descriptor with `c` of `n` words left stands at a word of its buffer, aligned and mapped (rules R53, R54). -/
theorem pointer_in_buffer {cfg : Params} {a p : Word} {n c : Nat} (halign : isAligned a = true)
    (hfits : regionFits a n = true) (hmapped : allMapped cfg a.toNat (4 * n) = true) (hc : 0 < c) (hcn : c ≤ n)
    (hp : p = a + BitVec.ofNat 32 (4 * (n - c))) :
    ∃ k < n, p.toNat = a.toNat + 4 * k ∧ p.toNat % 4 = 0 ∧ ∀ j < 4, isMapped cfg (p.toNat + j) = true := by
  have halign : a.toNat % 4 = 0 := of_decide_eq_true halign
  have hfits : a.toNat + 4 * n ≤ 0x100000000 := of_decide_eq_true hfits
  have hk : p.toNat = a.toNat + 4 * (n - c) := by
    rw [hp, BitVec.toNat_add, BitVec.toNat_ofNat]
    omega
  refine ⟨n - c, by omega, hk, by omega, fun j hj => ?_⟩
  rw [hk, Nat.add_assoc]
  exact (allMapped_iff cfg a.toNat (4 * n)).mp hmapped _ (by omega)

/-- Settles O47: an engine with words left to move serves the holder in T4, whose accepted buffers its descriptors walk
through. -/
theorem dmaStaysInBuffers : Obligations.DmaStaysInBuffers := by
  intro s hs
  have serving : s.en = true → s.tcr ≠ 0 ∨ s.rcr ≠ 0 →
      ∃ h, s.lock = some h ∧ (s.latch h).accepted s.cfg ∧ DescriptorsAt s (s.latch h) := by
    intro hen hleft
    obtain ⟨h, hl, hp, hrun⟩ := hs.engine.running hs.exclusion (fun ⟨hstop, _⟩ => by simp [hstop] at hen)
    obtain ⟨-, -, -, -, -, -, hdesc⟩ := hrun.moving hen hleft
    exact ⟨h, hl, (hs.requests h (by rw [hp]; rfl)).2, hdesc⟩
  constructor
  · intro henabled
    obtain ⟨hen, htcr⟩ := dmaTxEnabled_iff.mp henabled
    obtain ⟨h, hl, ⟨-, -, htx, -, hfits, -, -, hmapped, -⟩, hle, -, htpr, -⟩ := serving hen (.inl htcr)
    obtain ⟨k, hk, hin⟩ := pointer_in_buffer htx hfits hmapped (toNat_sub_one htcr).1 hle htpr
    exact ⟨h, k, hl, hk, hin⟩
  · intro henabled
    obtain ⟨hen, hrcr, -⟩ := dmaRxEnabled_iff.mp henabled
    obtain ⟨h, hl, ⟨-, -, -, hrx, -, hfits, -, -, hmapped⟩, -, hle, -, hrpr⟩ := serving hen (.inr hrcr)
    obtain ⟨k, hk, hin⟩ := pointer_in_buffer hrx hfits hmapped (toNat_sub_one hrcr).1 hle hrpr
    exact ⟨h, k, hl, hk, hin⟩

/-! ### The release of the lock (rules R58, R59, R109) -/

/-- The step of a requester in T5 releases the lock and responds (rule R109). -/
theorem Fired.of_t5 {r : Nat} (h : Fired (.task r) s t) (hp : s.phase r = .t5) :
    ∃ q, s.reqs[r]? = some q ∧ q.ph = .t5 ∧ t = { s with
      lock := none, trace := s.trace ++ [.rsp r .ok 0 none], reqs := s.reqs.set r { q with ph := .idle } } := by
  obtain ⟨q', hq', hph⟩ := State.get_of_phase (s := s) (r := r) (by simp [hp])
  rw [hp] at hph
  cases h with
  | t5 _ _ q hq hp' => exact ⟨q, hq, hp', rfl⟩
  | _ => simp_all

/-- Only the agent of a requester responds for it (rules R3, R170). -/
theorem Fired.agent_of_response {r : Nat} {code : RspCode} {info : Word} {word : Option Word} (h : Fired m s t)
    (ht : t.trace = s.trace ++ [.rsp r code info word]) : m = .task r := by
  cases h with
  | respond | init | unregister | t5 | g4 =>
    simp only [List.append_cancel_left_eq, List.cons.injEq, Event.rsp.injEq] at ht
    obtain ⟨⟨rfl, -⟩, -⟩ := ht
    rfl
  | dmaTx => simp at ht
  | spiB => split at ht <;> simp at ht
  | gpioScan => split at ht <;> [split at ht; skip] <;> simp at ht
  | _ => simp at ht

/-- Settles O55: only T1, on a free lock, and T5, the holder's under mutual exclusion, write `LOCK`. -/
theorem lockHeldUntilResponse : Obligations.LockHeldUntilResponse := by
  intro s t m rest h hx hm hstep hl
  by_cases hkept : t.lock = s.lock
  · exact .inl (hkept.trans hl)
  rcases step_move hm hstep with rfl | hfired
  · exact absurd rfl hkept
  obtain ⟨r, rfl, ⟨-, hfree, -⟩ | ⟨hp, hnone⟩⟩ := hfired.lock_writer hkept
  · exact absurd (hl.symm.trans hfree) (by simp)
  have hp' : s.phase r = .t5 := hp
  obtain rfl : r = h := by
    have hheld : s.lock = some r := (hx r).mp (by rw [hp']; rfl)
    exact Option.some.inj (hheld.symm.trans hl)
  obtain ⟨q, -, -, rfl⟩ := hfired.of_t5 hp
  exact .inr ⟨rfl, hp', rfl, rfl⟩

/-- Settles O48: the response is the requester's own T5, where the invariant has the engine stopped with every word
moved. -/
theorem responseAfterLastWord : Obligations.ResponseAfterLastWord := by
  intro s t r hs hp hstep htrace
  rcases step_fired hstep with ⟨-, rfl⟩ | ⟨m, rest, hm, ⟨-, rfl⟩ | ⟨-, hfired⟩⟩
  · simp at htrace
  · simp at htrace
  obtain rfl := hfired.agent_of_response htrace
  obtain ⟨q, hq, hph, rfl⟩ := hfired.of_t5 hp
  have hq' : s.reqs[r]? = some q := hq
  obtain ⟨hl, hheld⟩ := hs.engine.holder hs.exclusion hq' (by rw [hph]; rfl)
  rw [hph] at hheld
  obtain ⟨⟨hen, hdone, hsig, hinfl, hspi⟩, hnvic, hcb, htcr, hrcr, -, -, -, htpr, hrpr⟩ := hheld
  have hidle := State.phase_of_set (q' := { q with ph := .idle }) hq' (t := { s with reqs := _ }) rfl r
  rw [if_pos rfl] at hidle
  rw [State.latch_of_get hq']
  refine ⟨hm, hl, htcr, hrcr, hinfl, ?_, ?_, hen, hdone, hsig, hnvic, hcb, hspi, hidle, fun r' hr' => ?_, rfl⟩
  · simpa [htcr] using htpr
  · simpa [hrcr] using hrpr
  · exact List.getElem?_set_ne (Ne.symm hr')

/-! ### What can stop the machine (rules R54, R79, R102, R136) -/

/-- Presenting a command raises no fault of its own. -/
theorem issue_ne_fault {act : Nat → Host.Outcome State Fault Refusal} {f : Fault} (hact : ∀ r, act r ≠ .fault f) :
    s.issue act ≠ .fault f := by
  unfold State.issue
  split
  · simp
  · split
    · simp
    · split
      · simp
      · exact hact _

/-- No instruction faults: a command acts or is refused, and a control word moves or waits. -/
theorem exec_ne_fault (i : Instr) (s : State) (f : Fault) : exec i s ≠ .fault f := by
  have hmove : ∀ w, moveControlWord w s ≠ .fault f := fun w => by unfold moveControlWord; split <;> simp
  cases i with
  | cwS0 l td | cwS1 l td | cwS2 l td | cwS3 l td => exact hmove _
  | encode last cs payload =>
    rw [exec, execEncode]
    exact issue_ne_fault fun r => by split <;> simp
  | transceive tx rx n cb =>
    rw [exec, execTransceive]
    refine issue_ne_fault fun r => ?_
    split
    · simp
    · split <;> simp
  | gpioRegister bank pin mode hook =>
    rw [exec, execGpioRegister]
    exact issue_ne_fault fun r => by split <;> simp
  | gpioUnregister bank pin =>
    rw [exec, execGpioUnregister]
    exact issue_ne_fault fun r => by split <;> simp
  | init =>
    rw [exec, execInit]
    exact issue_ne_fault fun r => by simp

/-- How a script item stops: a command by a refusal, an own access by the fault of its address (rules R54, R79). -/
theorem issueItem_stops {r : Nat} {item : Item} {items : List Item} (h : ∀ t, issueItem r item items s ≠ .next t) :
    (∃ p why, item = .command p ∧ issueItem r item items s = .refused why) ∨
      ∃ width a, (item = .load width a ∨ ∃ v, item = .store width a v) ∧
        issueItem r item items s = .fault (.unmappedAccess r a) := by
  cases item with
  | command p =>
    refine .inl ?_
    cases hd : decode (.command p) with
    | reserved why => exact ⟨p, .reservedCommand p.op, rfl, by simp only [issueItem, hd]⟩
    | instr i =>
      have hexec : issueItem r (.command p) items s = exec i (presentCommand r items s) := by
        simp only [issueItem, hd]
      cases ho : exec i (presentCommand r items s) with
      | next t => exact absurd (hexec.trans ho) (h t)
      | fault f => exact absurd ho (exec_ne_fault i _ f)
      | refused why => exact ⟨p, why, rfl, hexec.trans ho⟩
  | load width a =>
    by_cases hmapped : accessMapped s width a = true
    · exact absurd (if_pos hmapped) (h _)
    · exact .inr ⟨width, a, .inl rfl, if_neg hmapped⟩
  | store width a v =>
    by_cases hmapped : accessMapped s width a = true
    · exact absurd (if_pos hmapped) (h _)
    · exact .inr ⟨width, a, .inr ⟨v, rfl⟩, if_neg hmapped⟩

/-- An enabled step that stops is that of an IDLE requester running an item of its script. -/
theorem fire_stops (he : s.enabled m = true) (h : ∀ t, fire m s ≠ .next t) :
    ∃ r q item items, m = .task r ∧ s.reqs[r]? = some q ∧ q.ph = .idle ∧ s.handlerActive = false ∧
      q.script = item :: items ∧ fire m s = issueItem r item items s := by
  cases m with
  | task r =>
    simp only [State.enabled, taskEnabled] at he
    simp only [fire, taskStep] at h ⊢
    cases hq : s.reqs[r]? with
    | none => simp [hq] at he
    | some q =>
      simp only [hq, Bool.and_eq_true, Bool.not_eq_true'] at he h
      obtain ⟨hh, hready⟩ := he
      cases hp : q.ph <;> simp only [hp] at hready h
      case idle =>
        cases hs : q.script with
        | nil => simp [hs] at hready
        | cons item items => exact ⟨r, q, item, items, rfl, hq, hp, hh, hs, by simp [hp, hs]⟩
      all_goals exact absurd rfl (h _)
  | dmaTx => exact absurd (dmaTxStep_eq he) (h _)
  | dmaRx v => exact absurd rfl (h _)
  | spi => exact absurd rfl (h _)
  | gpio b => exact absurd rfl (h _)
  | pin b p level choice => exact absurd rfl (h _)

/-- Settles O60: no agent but an IDLE requester has a rule that stops, and its script item stops in one of two ways. -/
theorem onlyScriptItemsStop : Obligations.OnlyScriptItemsStop := by
  intro s hstop
  cases hm : s.moves with
  | nil => exact absurd (by simp [step, hm]) (hstop s)
  | cons m rest =>
    cases he : State.enabled { s with moves := rest } m with
    | false => exact absurd ((step_cons hm).trans (runMove_blocked he)) (hstop _)
    | true =>
      have hstep : step s = fire m { s with moves := rest } := (step_cons hm).trans (runMove_enabled he)
      rw [hstep] at hstop ⊢
      obtain ⟨r, q, item, items, rfl, hq, hp, hh, hs, hfire⟩ := fire_stops he hstop
      rw [hfire] at hstop ⊢
      exact ⟨r, q, rest, item, items, rfl, hq, hp, hh, hs, issueItem_stops hstop⟩

end Sys2Proof.Machine
end

section
/-! PROOFS of the statements that cite `30_encoding.md`: the decoder inverts the encoder (rules R70 to R78, R94), the
classes of control words (rule R74), the operation codes that name no command (rule R79), and the steps that run what the
decoder reads (rules R75, R76, R110). -/

namespace Sys2Proof.Machine

variable {s : State}

/-! ### The route table and the trigger modes (rules R72, R78) -/

/-- Settles O4: the four rows are the table's own, and past select 3 the table ends. -/
theorem routeTable : Obligations.RouteTable := by
  refine ⟨rfl, rfl, rfl, rfl, fun cs hcs => ?_, fun cs hcs => ?_, rfl, rfl, rfl, rfl⟩
  · rw [route]
    interval_cases cs.toNat <;> rfl
  · cases hroute : route cs with
    | none => rfl
    | some bits => rcases route_some hroute with ⟨rfl, -⟩ | ⟨rfl, -⟩ | ⟨rfl, -⟩ | ⟨rfl, -⟩ <;> simp at hcs

/-- A trigger mode has its own code. -/
theorem decodeMode_encodeMode (m : TrigMode) : decodeMode (encodeMode m) = m := by
  cases m <;> rfl

/-- Settles O5: the four codes by evaluation, and operation 3 hands its code to `decodeMode` whatever it is. -/
theorem modeEncoding : Obligations.ModeEncoding := by
  refine ⟨rfl, rfl, rfl, rfl, fun p hop => ?_, decodeMode_encodeMode⟩
  simp [decode, decodePort, hop]

/-! ### The decoder inverts the encoder (rules R70 to R78, R94) -/

/-- DECODE_CW of a word packed with a select's route gives back the flag, the select and the payload (rule R93). -/
theorem decodeControlWord_packWord {cs bits : Byte} (h : route cs = some bits) (l : Bool) (td : Half) :
    decodeControlWord (packWord l bits td) = some (l, cs, td) := by
  rw [decodeControlWord, if_pos (rsvField_packWord l bits td), routeField_packWord, lastField_packWord,
    payloadField_packWord]
  rcases route_some h with ⟨rfl, rfl⟩ | ⟨rfl, rfl⟩ | ⟨rfl, rfl⟩ | ⟨rfl, rfl⟩ <;> rfl

/-- The decoder gives back what the encoder wrote: a control word through its fields, a command through its ports. -/
theorem decode_encode (i : Instr) : decode (encode i) = .instr i := by
  cases i with
  | cwS0 l td => rw [encode, decode, decodeWord, decodeControlWord_packWord (cs := 0) rfl]; rfl
  | cwS1 l td => rw [encode, decode, decodeWord, decodeControlWord_packWord (cs := 1) rfl]; rfl
  | cwS2 l td => rw [encode, decode, decodeWord, decodeControlWord_packWord (cs := 2) rfl]; rfl
  | cwS3 l td => rw [encode, decode, decodeWord, decodeControlWord_packWord (cs := 3) rfl]; rfl
  | encode last cs payload => cases last <;> rfl
  | transceive tx rx n cb => cases cb <;> rfl
  | gpioRegister bank pin mode hook =>
    exact congrArg (fun m => Decoded.instr (.gpioRegister bank pin m hook)) (decodeMode_encodeMode mode)
  | gpioUnregister bank pin => rfl
  | init => rfl

/-- Settles O1, by `decode_encode`, one case per row of the opcode table. -/
theorem decodeInvertsEncode : Obligations.DecodeInvertsEncode := decode_encode

/-- A table word whose raw form is what the encoder writes for `i` decodes to `i`. -/
theorem decodeTableWord_of_encode {nbits w : Nat} {i : Instr} (h : tableForm nbits w = some (encode i)) :
    decodeTableWord nbits w = some i := by
  simp only [decodeTableWord, h, decode_encode]

/-- Settles O6: each sample word of a row is the word the encoder writes for the row's instruction; the two others are
reserved. -/
theorem sampleWordsDecode : Obligations.SampleWordsDecode :=
  ⟨decodeTableWord_of_encode rfl, decodeTableWord_of_encode rfl, decodeTableWord_of_encode rfl,
    decodeTableWord_of_encode rfl, decodeTableWord_of_encode rfl, rfl,
    decodeTableWord_of_encode rfl, decodeTableWord_of_encode rfl, decodeTableWord_of_encode rfl,
    decodeTableWord_of_encode rfl, decodeTableWord_of_encode rfl, rfl⟩

/-! ### The classes of control words (rule R74) -/

/-- A word is an instruction exactly when DECODE_CW accepts it. -/
theorem decode_controlWord_isInstr_iff {w : Word} :
    (∃ i, decode (.controlWord w) = .instr i) ↔ ∃ l cs td, decodeControlWord w = some (l, cs, td) := by
  rw [decode, decodeWord]
  cases decodeControlWord w with
  | none => simp
  | some fields =>
    obtain ⟨l, cs, td⟩ := fields
    refine ⟨fun _ => ⟨l, cs, td, rfl⟩, fun _ => ?_⟩
    simp only
    split <;> exact ⟨_, rfl⟩

/-- A word is an instruction exactly when it is packed with the route of a select (rule R94 law (3)). -/
theorem decode_controlWord_isInstr_iff_packed {w : Word} :
    (∃ i, decode (.controlWord w) = .instr i) ↔
      ∃ (last : Bool) (cs bits : Byte) (payload : Half), route cs = some bits ∧ w = packWord last bits payload := by
  rw [decode_controlWord_isInstr_iff]
  constructor
  · rintro ⟨l, cs, td, hcw⟩
    obtain ⟨bits, hroute, hw⟩ := decodeControlWord_some hcw
    exact ⟨l, cs, bits, td, hroute, hw⟩
  · rintro ⟨l, cs, bits, td, hroute, rfl⟩
    exact ⟨l, cs, td, decodeControlWord_packWord hroute l td⟩

/-- The routes of the selects are 0, 1, 3 and 7 (rule R72). -/
theorem exists_route_iff {bits : Byte} : (∃ cs, route cs = some bits) ↔ bits = 0 ∨ bits = 1 ∨ bits = 3 ∨ bits = 7 := by
  constructor
  · rintro ⟨cs, hroute⟩
    rcases route_some hroute with ⟨-, h⟩ | ⟨-, h⟩ | ⟨-, h⟩ | ⟨-, h⟩ <;> simp [h]
  · rintro (rfl | rfl | rfl | rfl)
    exacts [⟨0, rfl⟩, ⟨1, rfl⟩, ⟨2, rfl⟩, ⟨3, rfl⟩]

/-- A word is packed with the route of a select exactly when `RSV` is 0 and `ROUTE` is a row of the table. -/
theorem packed_iff_fields {w : Word} :
    (∃ (last : Bool) (cs bits : Byte) (payload : Half), route cs = some bits ∧ w = packWord last bits payload) ↔
      rsvField w = 0 ∧ ∃ cs, route cs = some (routeField w) := by
  constructor
  · rintro ⟨l, cs, bits, td, hroute, rfl⟩
    exact ⟨rsvField_packWord l bits td, cs, by rw [routeField_packWord, hroute]⟩
  · rintro ⟨hrsv, cs, hroute⟩
    exact ⟨lastField w, cs, routeField w, payloadField w, hroute, (packWord_fields hrsv).symm⟩

/-- Field `RSV` is `w[31:25]`. -/
theorem rsvField_eq_zero_iff {w : Word} : rsvField w = 0 ↔ w >>> 25 = 0#32 := by
  rw [rsvField, ← BitVec.toNat_inj, ← BitVec.toNat_inj, BitVec.extractLsb'_toNat, BitVec.toNat_ushiftRight,
    Nat.mod_eq_of_lt (by have := w.isLt; rw [Nat.shiftRight_eq_div_pow]; omega)]
  rfl

/-- Field `ROUTE` is `w[23:16]`. -/
theorem routeField_eq_iff {w : Word} {bits : Byte} : routeField w = bits ↔ (w >>> 16) &&& 0xFF#32 = bits.setWidth 32 := by
  have hmask : (w >>> 16) &&& 0xFF#32 = (routeField w).setWidth 32 := by
    rw [← BitVec.toNat_inj, BitVec.toNat_and, routeField, BitVec.toNat_setWidth_of_le (by decide),
      BitVec.extractLsb'_toNat, BitVec.toNat_ushiftRight]
    exact Nat.and_two_pow_sub_one_eq_mod _ 8
  rw [hmask, ← BitVec.toNat_inj, ← BitVec.toNat_inj, BitVec.toNat_setWidth_of_le (by decide),
    BitVec.toNat_setWidth_of_le (by decide)]

/-- Settles O3: a decoded word is a packed one, a packed one has these fields, and a field is its shifted bits. -/
theorem controlWordClasses : Obligations.ControlWordClasses := by
  intro w
  refine ⟨?_, decode_controlWord_isInstr_iff_packed⟩
  rw [decode_controlWord_isInstr_iff_packed, packed_iff_fields, exists_route_iff, rsvField_eq_zero_iff]
  simp only [routeField_eq_iff]
  rfl

/-! ### Operation codes that name no command (rules R76, R79) -/

/-- A presentation is reserved exactly when its operation code is 0 or at least 6. -/
theorem decode_command_reserved_iff {p : Port} :
    (∃ why, decode (.command p) = .reserved why) ↔ p.op = 0 ∨ 6 ≤ p.op.toNat := by
  have hzero : p.op = 0 ↔ p.op.toNat = 0 := BitVec.toNat_inj.symm
  rw [hzero, decode, decodePort]
  split
  case h_6 =>
    simp only [imp_false] at *
    exact iff_of_true ⟨_, rfl⟩ (by omega)
  all_goals simp [*]

/-- Settles O7: the step runs the script's item, which the decoder names reserved. -/
theorem reservedOperationsRefused : Obligations.ReservedOperationsRefused := by
  refine ⟨fun p => decode_command_reserved_iff, fun s r q p items rest hm hh hq hp hs hop => ?_⟩
  obtain ⟨why, hd⟩ := decode_command_reserved_iff.mpr hop
  rw [step_item hm hh hq hp hs]
  simp only [issueItem, hd]

/-! ### A step runs what the decoder reads (rules R70, R75, R76, R110) -/

/-- Settles O18: the requester's item decodes to `i`, and presenting it updates that requester's script and `cmd_req`. -/
theorem stepRunsDecodedCommand : Obligations.StepRunsDecodedCommand := by
  intro s r q p i items rest hm hh hq hp hs hd
  rw [step_item hm hh hq hp hs]
  simp only [issueItem, hd]
  rw [presentCommand, State.modReq_eq_set (s := { s with moves := rest }) hq]

/-- DMA_TX is blocked while the engine is stopped or has no word left to transmit (rules R110, R113). -/
theorem dmaTxEnabled_eq_false (h : s.en = false ∨ s.tcr = 0) : s.dmaTxEnabled = false := by
  rcases h with h | h <;> simp [State.dmaTxEnabled, h]

/-- Settles O20: enabled, DMA_TX transmits the word whatever it is; blocked, it leaves everything. -/
theorem dmaTxMovesEveryWord : Obligations.DmaTxMovesEveryWord := by
  intro s rest hm
  refine ⟨step_dmaTx hm, fun hblocked => ?_⟩
  have hoff : State.enabled { s with moves := rest } .dmaTx = false := dmaTxEnabled_eq_false hblocked
  rw [step_cons hm, runMove_blocked hoff]

/-- The word rule R70 gives: the flag at bit 24, the route at bit 16, the payload below. -/
theorem packWord_eq (l : Bool) (bits : Byte) (td : Half) :
    packWord l bits td = (if l then 0x01000000#32 else 0#32) ||| (bits.setWidth 32 <<< 16) ||| td.setWidth 32 := by
  cases l <;> rfl

/-- A control word with any route leaves for the shifter while DMA_TX is enabled (rules R70, R110). -/
theorem moveControlWord_packWord_enabled (hen : s.en = true) (htcr : s.tcr ≠ 0) (l : Bool) (bits : Byte) (td : Half) :
    moveControlWord (packWord l bits td) s = .next { s with
      trace := s.trace ++ [.spiTx ((if l then 0x01000000#32 else 0#32) ||| (bits.setWidth 32 <<< 16) ||| td.setWidth 32)]
      tpr := s.tpr + 4, tcr := s.tcr - 1, infl := s.infl + 1 } := by
  rw [← packWord_eq]
  exact if_pos (dmaTxEnabled_iff.mpr ⟨hen, htcr⟩)

/-- Settles O14: the four rows differ in the route alone. -/
theorem controlWordMoves : Obligations.ControlWordMoves := by
  intro s l td
  refine ⟨fun hen htcr => ?_, fun hblocked => ?_⟩
  · have hmove := fun bits => moveControlWord_packWord_enabled hen htcr l bits td
    exact ⟨hmove 0, hmove 1, hmove 3, hmove 7⟩
  · have hwait : ∀ w, moveControlWord w s = .next s := fun w => by
      rw [moveControlWord, dmaTxEnabled_eq_false hblocked]; rfl
    exact ⟨hwait _, hwait _, hwait _, hwait _⟩

end Sys2Proof.Machine
end

section
/-! PROOFS of the statements that cite `40_encoder.md`: a control word has one reading (rule R94 law (2)), what ENCODE
answers (rule R91), and that its operands alone decide the answer (rule R90). -/

namespace Sys2Proof.Machine

variable {s : State} {q : Requester} {cs bits : Byte}

/-! ### One reading of a control word (rule R94) -/

/-- A word packed with the route of a select is what the encoder writes for some row of the opcode table. -/
theorem exists_encode_eq_packWord (h : route cs = some bits) (l : Bool) (td : Half) :
    ∃ i, encode i = .controlWord (packWord l bits td) := by
  rcases route_some h with ⟨-, rfl⟩ | ⟨-, rfl⟩ | ⟨-, rfl⟩ | ⟨-, rfl⟩
  exacts [⟨.cwS0 l td, rfl⟩, ⟨.cwS1 l td, rfl⟩, ⟨.cwS2 l td, rfl⟩, ⟨.cwS3 l td, rfl⟩]

/-- Settles O2: the word is packed, so the encoder writes it for some instruction, and that is the one it decodes to. -/
theorem controlWordHasOneReading : Obligations.ControlWordHasOneReading := by
  intro w i hdec
  obtain ⟨l, cs, bits, td, hroute, rfl⟩ := decode_controlWord_isInstr_iff_packed.mp ⟨i, hdec⟩
  obtain ⟨j, henc⟩ := exists_encode_eq_packWord hroute l td
  have hji : Decoded.instr j = .instr i := by rw [← decode_encode j, henc, hdec]
  cases hji
  exact henc

/-! ### What ENCODE answers (rules R90, R91) -/

/-- No select past 3 has a route (rule R72). -/
theorem route_eq_none (h : 3 < cs.toNat) : route cs = none := by
  obtain ⟨-, -, -, -, -, hnone, -⟩ := routeTable
  exact hnone cs h

/-- ENCODE with a select that has a route responds with the packed word (rule R91). -/
theorem exec_encode_of_route (hq : s.reqs[s.cmdReq]? = some q) (hp : q.ph = .idle) (hh : s.handlerActive = false)
    (last : Bool) (payload : Half) (hroute : route cs = some bits) :
    exec (.encode last cs payload) s =
      .next { s with trace := s.trace ++ [.rsp s.cmdReq .ok 0 (some (packWord last bits payload))] } := by
  rw [exec, execEncode_eq hq hp hh, hroute]
  rfl

/-- ENCODE with a select that has no route raises `ContractViolationCS` with the select (rules R91, R170). -/
theorem exec_encode_of_no_route (hq : s.reqs[s.cmdReq]? = some q) (hp : q.ph = .idle) (hh : s.handlerActive = false)
    (last : Bool) (payload : Half) (hroute : route cs = none) :
    exec (.encode last cs payload) s =
      .next { s with trace := s.trace ++ [.rsp s.cmdReq .errCs (cs.setWidth 32) none] } := by
  rw [exec, execEncode_eq hq hp hh, hroute]
  rfl

/-- Settles O8: selects 0 to 3 are the rows of the route table, and no other select has one. -/
theorem encodeResult : Obligations.EncodeResult := by
  refine ⟨fun p hop => ?_, fun s q last cs payload hq hp hh => ?_⟩
  · simp [decode, decodePort, hop]
  · have hok (bits : Byte) (hroute : route cs = some bits) := exec_encode_of_route hq hp hh last payload hroute
    simp only [packWord_eq] at hok
    exact ⟨fun hcs => hok 0 (congrArg route hcs), fun hcs => hok 1 (congrArg route hcs),
      fun hcs => hok 3 (congrArg route hcs), fun hcs => hok 7 (congrArg route hcs),
      fun hcs => exec_encode_of_no_route hq hp hh last payload (route_eq_none hcs)⟩

/-- Settles O9: the route of the select decides the answer, and no state element takes part in it. -/
theorem encodeDependsOnOperandsAlone : Obligations.EncodeDependsOnOperandsAlone := by
  intro s₁ s₂ q₁ q₂ last cs payload hq₁ hp₁ hh₁ hq₂ hp₂ hh₂
  cases hroute : route cs with
  | none =>
    exact ⟨.errCs, cs.setWidth 32, none, exec_encode_of_no_route hq₁ hp₁ hh₁ last payload hroute,
      exec_encode_of_no_route hq₂ hp₂ hh₂ last payload hroute⟩
  | some bits =>
    exact ⟨.ok, 0, some (packWord last bits payload), exec_encode_of_route hq₁ hp₁ hh₁ last payload hroute,
      exec_encode_of_route hq₂ hp₂ hh₂ last payload hroute⟩

end Sys2Proof.Machine
end

section
/-! PROOFS of the statements that cite `41_transfer_engine.md`: INIT (rule R100), the tests of T0 in their order (rule
R102), the micro-steps T1 to T5 (rules R103 to R109), and a whole TRANSCEIVE that nothing interleaves (rules R101 to
R111, R130 to R135). -/

namespace Sys2Proof.Machine

variable {s : State} {r : Nat} {q : Requester} {rest : List Move}

/-! ### INIT (rule R100) -/

/-- An update of all the banks, bank by bank. -/
theorem State.map_banks_eq (s : State) (f : Bank → Bank) :
    s.banks.map f = #v[f (s.bank 0), f (s.bank 1), f (s.bank 2)] := by
  ext i hi
  interval_cases i <;> exact Vector.getElem_map ..

/-- An update that leaves every bank leaves the banks. -/
theorem State.map_banks_of_fixed {f : Bank → Bank} (hf : ∀ b : BankId, f (s.bank b) = s.bank b) :
    s.banks.map f = s.banks := by
  ext i hi
  rw [Vector.getElem_map]
  exact hf ⟨i, hi⟩

/-- Setting `READY` and `IE_DONE` where both are set. -/
theorem State.enables_eq (hready : s.ready = true) (hie : s.ieDone = true) :
    { s with ready := true, ieDone := true } = s := by
  cases s
  cases hready
  cases hie
  rfl

/-- Settles O10: where the five enables are set, INIT writes the values that stand there. -/
theorem initResult : Obligations.InitResult := by
  refine ⟨fun p hop => by simp [decode, decodePort, hop], fun s q hq hp hh => ⟨?_, fun hready hie hnvic => ?_⟩⟩
  · rw [← s.map_banks_eq fun k => { k with nvic := true }]
    exact execInit_eq hq hp hh
  · have hset (b : BankId) : { s.bank b with nvic := true } = s.bank b := by rw [← hnvic b]
    have hinit := execInit_eq hq hp hh
    rw [State.map_banks_of_fixed hset, State.enables_eq hready hie] at hinit
    exact hinit

/-! ### The tests of T0 (rule R102) -/

/-- A test of both addresses fails when it fails for one of them. -/
theorem not_or_not_iff (a b : Bool) : (!a || !b) = true ↔ ¬ (a = true ∧ b = true) := by
  rw [← Bool.not_and, Bool.not_eq_true', Bool.eq_false_iff, ne_eq, Bool.and_eq_true]

/-- A region that does not pass the top of the address space (rule R53). -/
theorem regionFits_iff {a : Word} {n : Nat} : regionFits a n = true ↔ a.toNat + 4 * n ≤ 2 ^ 32 :=
  decide_eq_true_iff

/-- Two regions overlap unless one ends before the other begins (rule R53). -/
theorem regionsMeet_iff {tx rx : Word} {n : Nat} :
    regionsMeet tx rx n = true ↔ ¬ (tx.toNat + 4 * n ≤ rx.toNat ∨ rx.toNat + 4 * n ≤ tx.toNat) := by
  simp [regionsMeet, and_comm]

/-- The tests of T0 as statements about addresses, in their order (rules R53, R54, R102). -/
theorem transferRefusal_eq (s : State) (tx rx n : Word) :
    transferRefusal s tx rx n =
      if ¬ s.ready = true then some .notReady
      else if n = 0 then some .zeroLength
      else if ¬ (tx.toNat % 4 = 0 ∧ rx.toNat % 4 = 0) then some .misalignedBuffer
      else if ¬ (tx.toNat + 4 * n.toNat ≤ 2 ^ 32 ∧ rx.toNat + 4 * n.toNat ≤ 2 ^ 32) then some .regionPastTop
      else if ¬ (tx.toNat + 4 * n.toNat ≤ rx.toNat ∨ rx.toNat + 4 * n.toNat ≤ tx.toNat) then some .regionsOverlap
      else if ¬ (∀ k < 4 * n.toNat, isMapped s.cfg (tx.toNat + k) = true ∧ isMapped s.cfg (rx.toNat + k) = true) then
        some .regionNotMapped
      else none := by
  simp only [transferRefusal, not_or_not_iff, isAligned, decide_eq_true_eq, regionFits_iff, regionsMeet_iff,
    allMapped_iff, imp_and, forall_and, Bool.not_eq_true]

/-- A request with aligned, mapped buffers that lie apart in the address space passes the tests of T0 (rules R53, R54,
R102). -/
theorem accepts_of_tests {tx rx n : Word} (hready : s.ready = true) (hn0 : n ≠ 0) (hncap : n.toNat ≤ s.cfg.bufCap)
    (halign : tx.toNat % 4 = 0 ∧ rx.toNat % 4 = 0)
    (hfits : tx.toNat + 4 * n.toNat ≤ 2 ^ 32 ∧ rx.toNat + 4 * n.toNat ≤ 2 ^ 32)
    (hdisjoint : tx.toNat + 4 * n.toNat ≤ rx.toNat ∨ rx.toNat + 4 * n.toNat ≤ tx.toNat)
    (hmapped : ∀ k < 4 * n.toNat, isMapped s.cfg (tx.toNat + k) = true ∧ isMapped s.cfg (rx.toNat + k) = true) :
    Accepts s tx rx n := by
  refine ⟨hncap, ?_⟩
  rw [transferRefusal_eq, if_neg (not_not.mpr hready), if_neg hn0, if_neg (not_not.mpr halign),
    if_neg (not_not.mpr hfits), if_neg (not_not.mpr hdisjoint), if_neg (not_not.mpr hmapped)]

/-- An accepted TRANSCEIVE is latched, and its requester is queued and moved to T1 (rule R102). -/
theorem exec_transceive_of_accepts {tx rx n : Word} (hq : s.reqs[s.cmdReq]? = some q) (hp : q.ph = .idle)
    (hh : s.handlerActive = false) (ha : Accepts s tx rx n) (cb : Option Handle) :
    exec (.transceive tx rx n cb) s = .next { s with
      reqs := s.reqs.set s.cmdReq { q with ph := .t1, req := q.req.withTransfer tx rx n cb }
      waitq := s.waitq ++ [s.cmdReq] } := by
  obtain ⟨hlen, hnone⟩ := ha
  rw [exec, execTransceive_eq hq hp hh, if_neg (Nat.not_lt.mpr hlen), hnone]
  rfl

/-- Settles O11: each clause is one branch of the tests of T0. -/
theorem transceiveIssue : Obligations.TransceiveIssue := by
  intro s q tx rx n cb hq hp hh ready aligned fits disjoint mapped
  have hexec := execTransceive_eq hq hp hh tx rx n cb
  refine ⟨fun hlen => hexec.trans (if_pos hlen), fun hlen => ?_⟩
  rw [if_neg (Nat.not_lt.mpr hlen), transferRefusal_eq] at hexec
  refine ⟨fun h => ?_, fun h0 h => ?_, fun h0 h1 h => ?_, fun h0 h1 h2 h => ?_, fun h0 h1 h2 h3 h => ?_,
    fun h0 h1 h2 h3 h4 h => ?_,
    fun h0 h1 h2 h3 h4 h => exec_transceive_of_accepts hq hp hh (accepts_of_tests h0 h1 hlen h2 h3 h4 h) cb⟩
  all_goals rw [exec, hexec]
  · rw [if_pos h]
  · rw [if_neg (not_not.mpr h0), if_pos h]
  · rw [if_neg (not_not.mpr h0), if_neg h1, if_pos h]
  · rw [if_neg (not_not.mpr h0), if_neg h1, if_neg (not_not.mpr h2), if_pos h]
  · rw [if_neg (not_not.mpr h0), if_neg h1, if_neg (not_not.mpr h2), if_neg (not_not.mpr h3), if_pos h]
  · rw [if_neg (not_not.mpr h0), if_neg h1, if_neg (not_not.mpr h2), if_neg (not_not.mpr h3), if_neg (not_not.mpr h4),
      if_pos h]

/-! ### The micro-steps of TRANSCEIVE (rules R103 to R109) -/

/-- The step of an enabled requester (rule R115). -/
theorem step_task (hm : s.moves = .task r :: rest) (he : taskEnabled s r = true) :
    step s = taskStep r { s with moves := rest } := by
  have henabled : State.enabled { s with moves := rest } (.task r) = true := he
  rw [step_cons hm, runMove_enabled henabled, fire]

/-- `PH[r] <- p` of an existing requester, as a record. -/
theorem State.setPhase_eq_set (hq : s.reqs[r]? = some q) (p : Phase) :
    s.setPhase r p = { s with reqs := s.reqs.set r { q with ph := p } } :=
  State.modReq_eq_set hq _

/-- A micro-step that ends by moving its requester to phase `p`, where `s'` is the state it reaches before. -/
theorem step_advance {p : Phase} (s' : State) (hm : s.moves = .task r :: rest) (hq : s.reqs[r]? = some q)
    (hreqs : s'.reqs = s.reqs) (he : taskEnabled s r = true)
    (htask : taskStep r { s with moves := rest } = .next (s'.setPhase r p)) :
    step s = .next { s' with reqs := s.reqs.set r { q with ph := p } } := by
  rw [step_task hm he, htask, State.setPhase_eq_set (by rw [hreqs]; exact hq), hreqs]

/-- T1 of a requester that the lock lets pass (rule R103). -/
theorem step_t1 (hm : s.moves = .task r :: rest) (hh : s.handlerActive = false) (hq : s.reqs[r]? = some q)
    (hp : q.ph = .t1) (hfree : mayAcquire s r = true) :
    step s = .next { s with
      moves := rest, lock := some r, waitq := s.waitq.filter (· ≠ r), reqs := s.reqs.set r { q with ph := .t2 } } :=
  step_advance { s with moves := rest, lock := some r, waitq := s.waitq.filter (· ≠ r) } hm hq rfl
    (by simp [taskEnabled_of hq hh, hp, hfree]) (by simp only [taskStep, hq, hp, t1Acquire])

/-- T2 (rule R104). -/
theorem step_t2 (hm : s.moves = .task r :: rest) (hh : s.handlerActive = false) (hq : s.reqs[r]? = some q)
    (hp : q.ph = .t2) :
    step s = .next { s with moves := rest, cb := q.req.cb, reqs := s.reqs.set r { q with ph := .t3a } } :=
  step_advance { s with moves := rest, cb := q.req.cb } hm hq rfl
    (by simp [taskEnabled_of hq hh, hp])
    (by simp only [taskStep, hq, hp, t2StoreCallback, State.latch_of_get (s := { s with moves := rest }) hq])

/-- T3A (rule R105). -/
theorem step_t3a (hm : s.moves = .task r :: rest) (hh : s.handlerActive = false) (hq : s.reqs[r]? = some q)
    (hp : q.ph = .t3a) :
    step s = .next { s with
      moves := rest, tpr := q.req.tx, tcr := q.req.n, rpr := q.req.rx, rcr := q.req.n
      reqs := s.reqs.set r { q with ph := .t3b } } :=
  step_advance { s with moves := rest, tpr := q.req.tx, tcr := q.req.n, rpr := q.req.rx, rcr := q.req.n } hm hq rfl
    (by simp [taskEnabled_of hq hh, hp])
    (by simp only [taskStep, hq, hp, t3aProgram, State.latch_of_get (s := { s with moves := rest }) hq])

/-- T3B (rule R106). -/
theorem step_t3b (hm : s.moves = .task r :: rest) (hh : s.handlerActive = false) (hq : s.reqs[r]? = some q)
    (hp : q.ph = .t3b) :
    step s = .next { s with moves := rest, nvicSpi := true, reqs := s.reqs.set r { q with ph := .t3c } } :=
  step_advance { s with moves := rest, nvicSpi := true } hm hq rfl
    (by simp [taskEnabled_of hq hh, hp]) (by simp only [taskStep, hq, hp, t3bEnableLine])

/-- T3C (rule R107). -/
theorem step_t3c (hm : s.moves = .task r :: rest) (hh : s.handlerActive = false) (hq : s.reqs[r]? = some q)
    (hp : q.ph = .t3c) :
    step s = .next { s with moves := rest, en := true, reqs := s.reqs.set r { q with ph := .t4 } } :=
  step_advance { s with moves := rest, en := true } hm hq rfl
    (by simp [taskEnabled_of hq hh, hp]) (by simp only [taskStep, hq, hp, t3cStart])

/-- T4 with the completion signal posted (rule R108). -/
theorem step_t4 (hm : s.moves = .task r :: rest) (hh : s.handlerActive = false) (hq : s.reqs[r]? = some q)
    (hp : q.ph = .t4) (hsig : s.sig = true) :
    step s = .next { s with moves := rest, sig := false, reqs := s.reqs.set r { q with ph := .t5 } } :=
  step_advance { s with moves := rest, sig := false } hm hq rfl
    (by simp [taskEnabled_of hq hh, hp, hsig]) (by simp only [taskStep, hq, hp, t4TakeSignal])

/-- T5 (rule R109). -/
theorem step_t5 (hm : s.moves = .task r :: rest) (hh : s.handlerActive = false) (hq : s.reqs[r]? = some q)
    (hp : q.ph = .t5) :
    step s = .next { s with
      moves := rest, lock := none, trace := s.trace ++ [.rsp r .ok 0 none]
      reqs := s.reqs.set r { q with ph := .idle } } :=
  step_advance { s with moves := rest, lock := none, trace := s.trace ++ [.rsp r .ok 0 none] } hm hq rfl
    (by simp [taskEnabled_of hq hh, hp]) (by simp only [taskStep, hq, hp, t5Release, State.respond, State.emit])

/-- A blocked requester takes no step (rules R4, R115). -/
theorem step_task_blocked (hm : s.moves = .task r :: rest) (he : taskEnabled s r = false) :
    step s = .next { s with moves := rest } := by
  have hblocked : State.enabled { s with moves := rest } (.task r) = false := he
  rw [step_cons hm, runMove_blocked hblocked]

/-- When the lock lets a requester pass (rule R103). -/
theorem mayAcquire_iff :
    mayAcquire s r = true ↔ s.lock = none ∧ (s.cfg.lockOrder = .any ∨ s.waitq.head? = some r) := by
  simp [mayAcquire]

/-- Settles O24: a requester in T1 is enabled exactly when the lock lets it pass. -/
theorem acquireLock : Obligations.AcquireLock := by
  intro s r q rest hm hh hq hp free
  refine ⟨fun hfree => step_t1 hm hh hq hp (mayAcquire_iff.mpr hfree), fun hheld => step_task_blocked hm ?_⟩
  have hwait : mayAcquire s r = false := Bool.eq_false_iff.mpr (mt mayAcquire_iff.mp hheld)
  simp [taskEnabled_of hq hh, hp, hwait]

/-- Settles O25: one lemma per micro-step. -/
theorem programAndStart : Obligations.ProgramAndStart := fun _ _ _ _ hm hh hq =>
  ⟨step_t2 hm hh hq, step_t3a hm hh hq, step_t3b hm hh hq, step_t3c hm hh hq⟩

/-- Settles O26: the signal alone decides whether a requester in T4 is enabled. -/
theorem waitAndRelease : Obligations.WaitAndRelease := by
  intro s r q rest hm hh hq
  refine ⟨step_t4 hm hh hq, fun hp hsig => step_task_blocked hm ?_, step_t5 hm hh hq⟩
  simp [taskEnabled_of hq hh, hp, hsig]

/-! ### The parts of a transfer that nothing interleaves (rules R102 to R109, R130 to R135) -/

/-- A run of `j` steps after a run of `k` steps. -/
theorem run_add {k : Nat} {s t : State} (h : Host.Core.run Sys2Proof.core k s = .next t) (j : Nat) :
    Host.Core.run Sys2Proof.core (k + j) s = Host.Core.run Sys2Proof.core j t := by
  induction k generalizing s with
  | zero =>
    cases h
    rw [Nat.zero_add]
  | succ k ih =>
    cases hstep : step s with
    | next s' =>
      rw [run_succ k s s' hstep] at h
      rw [Nat.succ_add, run_succ _ s s' hstep, ih h]
    | fault f | refused why => simp [Host.Core.run, Sys2Proof.core, hstep] at h

/-- A run starts with its first step. -/
theorem run_cons {k : Nat} {s t u : State} (h : step s = .next t) (ht : Host.Core.run Sys2Proof.core k t = .next u) :
    Host.Core.run Sys2Proof.core (k + 1) s = .next u :=
  (run_succ k s t h).trans ht

/-- A run goes on where a shorter one ended. -/
theorem run_trans {k j : Nat} {s t u : State} (h : Host.Core.run Sys2Proof.core k s = .next t)
    (ht : Host.Core.run Sys2Proof.core j t = .next u) : Host.Core.run Sys2Proof.core (k + j) s = .next u :=
  (run_add h j).trans ht

/-- The entry of the requester that was set. -/
theorem getElem?_set_of_get {l : List Requester} {q : Requester} (h : l[r]? = some q) (q' : Requester) :
    (l.set r q')[r]? = some q' :=
  List.getElem?_set_self (List.getElem?_eq_some_iff.mp h).1

/-- A requester after it issued an accepted TRANSCEIVE: the item is off its script, the request latched (rule R102). -/
def Requester.issued (q : Requester) (items : List Item) (tx rx n : Word) (cb : Option Handle) : Requester :=
  { q with script := items, ph := .t1, req := q.req.withTransfer tx rx n cb }

/-- `s` after its requester `r` issued an accepted TRANSCEIVE, which leaves it as `q` in T1 (rule R102). -/
def State.issueTransfer (s : State) (r : Nat) (q : Requester) : State :=
  { s with reqs := s.reqs.set r q, cmdReq := r, waitq := s.waitq ++ [r] }

/-- The step of an IDLE requester whose next item is an accepted TRANSCEIVE (rules R76, R102, R230). -/
theorem step_issueTransfer {p : Port} {tx rx n : Word} {cb : Option Handle} {items : List Item}
    (hm : s.moves = .task r :: rest) (hh : s.handlerActive = false) (hq : s.reqs[r]? = some q) (hp : q.ph = .idle)
    (hs : q.script = .command p :: items) (hd : decode (.command p) = .instr (.transceive tx rx n cb))
    (ha : Accepts s tx rx n) :
    step s = .next { s.issueTransfer r (q.issued items tx rx n cb) with moves := rest } := by
  have hpresented := getElem?_set_of_get hq { q with script := items }
  rw [stepRunsDecodedCommand s r q p _ items rest hm hh hq hp hs hd]
  refine Eq.trans
    (exec_transceive_of_accepts (s := { s with moves := _, reqs := _, cmdReq := r }) hpresented hp hh ha cb) ?_
  simp [State.issueTransfer, Requester.issued]

/-- `s` after its requester `r` started the transfer it had latched: T1 to T3C (rules R103 to R107). -/
def State.startTransfer (s : State) (r : Nat) (q : Requester) : State :=
  { s with
    lock := some r, waitq := s.waitq.filter (· ≠ r), cb := q.req.cb
    tpr := q.req.tx, tcr := q.req.n, rpr := q.req.rx, rcr := q.req.n, nvicSpi := true, en := true
    reqs := s.reqs.set r { q with ph := .t4 } }

/-- From T1 with the lock free, five steps of the requester start its transfer (rules R103 to R107). -/
theorem run_startTransfer (hm : s.moves = List.replicate 5 (.task r) ++ rest) (hh : s.handlerActive = false)
    (hq : s.reqs[r]? = some q) (hp : q.ph = .t1) (hfree : mayAcquire s r = true) :
    Host.Core.run Sys2Proof.core 5 s = .next { s.startTransfer r q with moves := rest } := by
  have hq₂ := getElem?_set_of_get hq { q with ph := .t2 }
  have hq₃ := getElem?_set_of_get hq₂ { q with ph := .t3a }
  have hq₄ := getElem?_set_of_get hq₃ { q with ph := .t3b }
  have hq₅ := getElem?_set_of_get hq₄ { q with ph := .t3c }
  refine run_cons (step_t1 hm hh hq hp hfree) ?_
  refine run_cons (step_t2 rfl hh hq₂ rfl) ?_
  refine run_cons (step_t3a rfl hh hq₃ rfl) ?_
  refine run_cons (step_t3b rfl hh hq₄ rfl) ?_
  refine run_cons (step_t3c rfl hh hq₅ rfl) ?_
  simp [Host.Core.run, State.startTransfer]

/-- No dispatcher is active exactly when the phase of every bank is idle (rule R177). -/
theorem anyDispatcherActive_eq_false : s.anyDispatcherActive = false ↔ ∀ b : BankId, (s.bank b).disp = .idle := by
  simp [State.anyDispatcherActive, State.dispatcherActive, Fin.forall_fin_succ, and_assoc]

/-- When the completion handler is entered (rules R174, R176). -/
theorem spiEntryEnabled_iff :
    s.spiEntryEnabled = true ↔ s.spiH = .idle ∧ s.done = true ∧ s.ieDone = true ∧ s.nvicSpi = true ∧
      (s.cfg.irqNest = .any ∨ ∀ b : BankId, (s.bank b).disp = .idle) := by
  simp [State.spiEntryEnabled, State.irqSpi, State.spiActive, anyDispatcherActive_eq_false, and_assoc, and_left_comm]

/-- The entry of the completion handler (rule R176). -/
theorem step_spi_entry (hm : s.moves = .spi :: rest) (he : s.spiEntryEnabled = true) :
    step s = .next { s with moves := rest, spiH := .a } := by
  have henabled : State.enabled { s with moves := rest } .spi = true := Bool.or_eq_true_iff.mpr (.inr he)
  have hi : s.spiH = .idle := (spiEntryEnabled_iff.mp he).1
  rw [step_cons hm, runMove_enabled henabled]
  simp only [fire, spiHandlerStep, hi, enterSpiHandler]

/-- An active completion handler takes the micro-step of its phase (rule R130). -/
theorem step_spi_active (hm : s.moves = .spi :: rest) (hi : s.spiH ≠ .idle) :
    step s = .next (spiHandlerStep { s with moves := rest }) := by
  have henabled : State.enabled { s with moves := rest } .spi = true :=
    Bool.or_eq_true_iff.mpr (.inl (decide_eq_true hi))
  rw [step_cons hm, runMove_enabled henabled, fire]

/-- Step (b) of the completion handler: the invocation of the callback, if there is one (rule R132). -/
theorem step_spi_callback (hm : s.moves = .spi :: rest) (hi : s.spiH = .b) :
    step s = .next { s with
      moves := rest, trace := s.trace ++ s.cb.toList.map .cbInvoke, cb := none, spiH := .c } := by
  rw [step_spi_active hm (by simp [hi])]
  cases s.cb <;> simp [spiHandlerStep, handlerCallback, hi, State.emit]

/-- `s` after one run of the completion handler (rules R131 to R135). -/
def State.completeTransfer (s : State) : State :=
  { s with
    done := false, cb := none, sig := true, en := false, nvicSpi := false, spiH := .idle
    trace := s.trace ++ s.cb.toList.map .cbInvoke }

/-- From an enabled entry, six steps of the completion handler run it to its end (rules R130 to R135). -/
theorem run_completeTransfer (hm : s.moves = List.replicate 6 .spi ++ rest) (he : s.spiEntryEnabled = true) :
    Host.Core.run Sys2Proof.core 6 s = .next { s.completeTransfer with moves := rest } := by
  refine run_cons (step_spi_entry hm he) ?_
  refine run_cons (step_spi_active rfl nofun) ?_
  refine run_cons (step_spi_callback rfl rfl) ?_
  refine run_cons (step_spi_active rfl nofun) ?_
  refine run_cons (step_spi_active rfl nofun) ?_
  refine run_cons (step_spi_active rfl nofun) ?_
  rfl

/-- `s` after its requester `r` took the completion signal, released the lock and responded: T4 and T5 (rules R108,
R109). -/
def State.releaseLock (s : State) (r : Nat) (q : Requester) : State :=
  { s with
    sig := false, lock := none, trace := s.trace ++ [.rsp r .ok 0 none]
    reqs := s.reqs.set r { q with ph := .idle } }

/-- From T4 with the signal posted, two steps of the requester end its command (rules R108, R109). -/
theorem run_releaseLock (hm : s.moves = List.replicate 2 (.task r) ++ rest) (hh : s.handlerActive = false)
    (hq : s.reqs[r]? = some q) (hp : q.ph = .t4) (hsig : s.sig = true) :
    Host.Core.run Sys2Proof.core 2 s = .next { s.releaseLock r q with moves := rest } := by
  have hq₅ := getElem?_set_of_get hq { q with ph := .t5 }
  refine run_cons (step_t4 hm hh hq hp hsig) ?_
  refine run_cons (step_t5 rfl hh hq₅ rfl) ?_
  simp [Host.Core.run, State.releaseLock]

/-! ### A whole transfer (rules R101 to R111, R130 to R135) -/

/-- An accepted length fits the 16-bit count it is latched in (rule R102). -/
theorem toNat_latched_length {cfg : Params} {n : Word} (hcfg : cfg.wellFormed = true) (hn : n.toNat ≤ cfg.bufCap) :
    (n.setWidth 16).toNat = n.toNat := by
  have hcap : cfg.bufCap ≤ 65535 := by
    simp only [Params.wellFormed, Bool.and_eq_true, decide_eq_true_eq] at hcfg
    obtain ⟨⟨-, hcap⟩, -⟩ := hcfg
    exact hcap
  rw [BitVec.toNat_setWidth]
  exact Nat.mod_eq_of_lt (by omega)

/-- `s` after its requester `r` issued a transfer, which left it as `q` in T1, and had it served with the words `draws`
coming in. -/
def State.transferred (s : State) (r : Nat) (q : Requester) (draws : List Word) : State :=
  ((((s.issueTransfer r q).startTransfer r q).movedWords draws.length draws).completeTransfer).releaseLock r
    { q with ph := .t4 }

/-- A served transfer leaves its requester IDLE and every other one as it was (rule R109). -/
theorem State.transferred_reqs (s : State) (r : Nat) (q : Requester) (draws : List Word) :
    (s.transferred r q draws).reqs = s.reqs.set r { q with ph := .idle } :=
  (List.set_set ..).trans (List.set_set ..)

/-- A served transfer leaves the queue as it was without its requester (rule R103). -/
theorem State.transferred_waitq (s : State) (r : Nat) (q : Requester) (draws : List Word) :
    (s.transferred r q draws).waitq = s.waitq.filter (· ≠ r) :=
  (List.filter_append ..).trans (by simp)

/-- The schedule plays no part in what the data mover needs. -/
theorem MoverReady.with_moves {n : Nat} (h : MoverReady s n) (moves : List Move) :
    MoverReady { s with moves := moves } n :=
  ⟨h.memory, h.running, h.idle, h.transmit, h.receive, h.nonempty, h.txFits, h.rxFits, h.disjoint⟩

/-- With all the words moved nothing is left to transmit (rule R110). -/
theorem MoverReady.movedWords_tcr {ds : List Word} (h : MoverReady s ds.length) :
    (s.movedWords ds.length ds).tcr = 0 := by
  simp [State.movedWords, ← h.transmit]

/-- With all the words moved nothing is left to receive (rule R111). -/
theorem MoverReady.movedWords_rcr {ds : List Word} (h : MoverReady s ds.length) :
    (s.movedWords ds.length ds).rcr = 0 := by
  simp [State.movedWords, ← h.receive]

/-- With all the words moved `DONE` is raised (rule R111). -/
theorem MoverReady.movedWords_done {ds : List Word} (h : MoverReady s ds.length) :
    (s.movedWords ds.length ds).done = true := by
  simp [State.movedWords, h.receive]

/-- After its issue on a free lock with nobody waiting, a transfer is the start, the run of the data mover over the two
buffers, the run of the completion handler and the release. -/
theorem run_transferred {schedule : List Move} {draws : List Word} {q₁ : Requester}
    (hissue : step s = .next { s.issueTransfer r q₁ with
      moves := List.replicate 5 (.task r) ++
        (schedule ++ (List.replicate 6 .spi ++ (List.replicate 2 (.task r) ++ rest))) })
    (hh : s.handlerActive = false) (hq : s.reqs[r]? = some q) (hp : q₁.ph = .t1) (hlock : s.lock = none)
    (hwaitq : s.waitq = []) (hie : s.ieDone = true)
    (hmover : MoverReady ((s.issueTransfer r q₁).startTransfer r q₁) draws.length)
    (hsched : DmaSchedule schedule draws) :
    Host.Core.run Sys2Proof.core (5 + (schedule.length + (6 + 2)) + 1) s =
      .next { s.transferred r q₁ draws with moves := rest } := by
  obtain ⟨hidle, hquiet⟩ := handlerActive_eq_false.mp hh
  have hq₁ := getElem?_set_of_get hq q₁
  have hfirst : (s.waitq ++ [r]).head? = some r := by rw [hwaitq]; rfl
  refine run_cons hissue ?_
  refine run_trans (run_startTransfer rfl hh hq₁ hp (mayAcquire_iff.mpr ⟨hlock, .inr hfirst⟩)) ?_
  refine run_trans (MoverReady.run_dmaSchedule (hmover.with_moves _) hsched (by rfl)) ?_
  refine run_trans (run_completeTransfer (by rfl) (spiEntryEnabled_iff.mpr
    ⟨hidle, hmover.movedWords_done, hie, rfl, .inr hquiet⟩)) ?_
  exact run_releaseLock rfl (handlerActive_eq_false.mpr ⟨rfl, hquiet⟩) (getElem?_set_of_get hq₁ _) rfl rfl

/-- Settles O39: the run ends in `State.transferred`, whose parts are read here. -/
theorem transferCompletes : Obligations.TransferCompletes := by
  intro s r q p tx rx n cb schedule draws items rest hs hh hready hlock hwaitq hq hidle hscript hdec hn0 hncap htx hrx
    htxFits hrxFits hdisjoint hmapped hlen hsched hm
  have ha := accepts_of_tests hready hn0 hncap ⟨htx, hrx⟩ ⟨htxFits, hrxFits⟩ hdisjoint hmapped
  have hcount : (n.setWidth 16).toNat = draws.length := (toNat_latched_length hs.parameters hncap).trans hlen.symm
  have hnonempty : draws.length ≠ 0 := fun h0 => hn0 (BitVec.eq_of_toNat_eq (hlen.symm.trans h0))
  obtain ⟨⟨-, -, -, hinfl, -⟩, -, -⟩ := (engineFollowsLock_of_free hlock).mp hs.engine
  obtain ⟨hie, -⟩ := hs.enables
  rw [← hlen] at htxFits hrxFits hdisjoint ⊢
  have hmover : MoverReady ((s.issueTransfer r (q.issued items tx rx n cb)).startTransfer r
      (q.issued items tx rx n cb)) draws.length :=
    ⟨hs.memory, rfl, hinfl, hcount, hcount, hnonempty, htxFits, hrxFits, hdisjoint⟩
  simp only [List.append_assoc] at hm
  have hrun := run_transferred (step_issueTransfer hm hh hq hidle hscript hdec ha) hh hq rfl hlock hwaitq
    (hie.trans hready) hmover hsched
  have hreqs := s.transferred_reqs r (q.issued items tx rx n cb) draws
  rw [show 14 + schedule.length = 5 + (schedule.length + (6 + 2)) + 1 by omega]
  refine ⟨_, hrun, ?_, fun k v hk => Memory.readWord_writeWords hs.memory hrxFits hk,
    fun a ha => Memory.readByte_writeWords_ne hs.memory hrxFits ha, rfl, rfl, hmover.movedWords_tcr,
    hmover.movedWords_rcr, Nat.sub_self _, rfl, ?_, rfl, rfl, rfl, rfl, rfl, rfl, hready, rfl, rfl, ?_,
    fun r' hr' => ?_, rfl⟩
  · cases cb <;> rfl
  · exact (s.transferred_waitq r _ draws).trans (by rw [hwaitq]; rfl)
  · exact (State.phase_of_set hq hreqs r).trans (if_pos rfl)
  · exact (congrArg (·[r']?) hreqs).trans (List.getElem?_set_ne hr'.symm)

end Sys2Proof.Machine
end

section
/-! PROOFS of the statements that cite `42_spi_completion_handler.md`: the five steps of the completion handler (rules
R131 to R135) and one whole run of it (rule R130). -/

namespace Sys2Proof.Machine

variable {s : State} {rest : List Move}

/-! ### The steps of the handler (rules R131 to R135) -/

/-- Step (a): the destructive read of the status register (rule R131). -/
theorem step_spi_readStatus (hm : s.moves = .spi :: rest) (hi : s.spiH = .a) :
    step s = .next { s with moves := rest, done := false, spiH := .b } := by
  rw [step_spi_active hm (by simp [hi])]
  simp only [spiHandlerStep, hi, handlerReadStatus, readSpiStatus]

/-- Step (c): the post of the completion signal (rule R133). -/
theorem step_spi_post (hm : s.moves = .spi :: rest) (hi : s.spiH = .c) :
    step s = .next { s with moves := rest, sig := true, spiH := .d1 } := by
  rw [step_spi_active hm (by simp [hi])]
  simp only [spiHandlerStep, hi, handlerPost]

/-- Step (d1): the stop of the engine (rule R134). -/
theorem step_spi_stopEngine (hm : s.moves = .spi :: rest) (hi : s.spiH = .d1) :
    step s = .next { s with moves := rest, en := false, spiH := .d2 } := by
  rw [step_spi_active hm (by simp [hi])]
  simp only [spiHandlerStep, hi, handlerStopEngine]

/-- Step (d2): the mask of the line and the return (rules R135, R180). -/
theorem step_spi_maskLine (hm : s.moves = .spi :: rest) (hi : s.spiH = .d2) :
    step s = .next { s with moves := rest, nvicSpi := false, spiH := .idle } := by
  rw [step_spi_active hm (by simp [hi])]
  simp only [spiHandlerStep, hi, handlerMaskLine, leaveSpiHandler]

/-- Settles O30: one lemma per step; for step (b) the slot is read in its two cases (rule R132). -/
theorem spiHandlerSteps : Obligations.SpiHandlerSteps := by
  intro s rest hm
  refine ⟨step_spi_readStatus hm, fun hi h hcb => ?_, fun hi hcb => ?_, step_spi_post hm,
    step_spi_stopEngine hm, step_spi_maskLine hm⟩
  · simp [step_spi_callback hm hi, hcb]
  · simp [step_spi_callback hm hi, hcb]

/-! ### One whole run (rules R130, R176) -/

/-- Settles O31: the run ends in `State.completeTransfer`; its phase is `idle` again, and its events are those of the
pending callback, if there is one. -/
theorem spiHandlerRunsToEnd : Obligations.SpiHandlerRunsToEnd := by
  intro s rest hm hi hdone hie hnvic hnest
  have henabled : s.spiEntryEnabled = true := spiEntryEnabled_iff.mpr ⟨hi, hdone, hie, hnvic, hnest⟩
  rw [run_completeTransfer hm henabled]
  cases hcb : s.cb with
  | none => simp [State.completeTransfer, hi, hcb]
  | some h => simp [State.completeTransfer, hi, hcb]

end Sys2Proof.Machine
end

section
/-! PROOFS of the statements that cite `43_gpio_dispatch.md`: the commands GPIO_REGISTER and GPIO_UNREGISTER (rules R140
to R146, R178), the event of a pin (rule R148), the steps of a bank's dispatcher and one whole dispatch (rules R150 to
R153, R177), and the hooks behind the mask (rule R153). -/

namespace Sys2Proof.Machine

variable {s : State} {r : Nat} {q : Requester} {b : BankId} {rest : List Move}

/-! ### The hooks behind the mask (rule R153) -/

/-- Settles O43: every rule keeps the hooks behind the mask, and the schedule is not spoken of. -/
theorem hooksBehindMaskKept : Obligations.HooksBehindMaskKept := by
  intro s t hs hstep
  exact step_keeps id Fired.hooksBehindMask hs hstep

/-! ### The commands when they are presented (rules R140, R146, R178) -/

/-- GPIO_REGISTER of bank 3 (rule R178). -/
theorem execGpioRegister_bank_three (hq : s.reqs[s.cmdReq]? = some q) (hp : q.ph = .idle) (hh : s.handlerActive = false)
    (pin : BitVec 5) (mode : TrigMode) (hook : Handle) :
    execGpioRegister 3 pin mode hook s = .next (s.raise s.cmdReq .errBank 3) :=
  issue_eq _ hq hp hh

/-- GPIO_UNREGISTER of bank 3 (rule R178). -/
theorem execGpioUnregister_bank_three (hq : s.reqs[s.cmdReq]? = some q) (hp : q.ph = .idle)
    (hh : s.handlerActive = false) (pin : BitVec 5) :
    execGpioUnregister 3 pin s = .next (s.raise s.cmdReq .errBank 3) :=
  issue_eq _ hq hp hh

/-- GPIO_UNREGISTER of an existing bank (rule R146). -/
theorem execGpioUnregister_eq (hq : s.reqs[s.cmdReq]? = some q) (hp : q.ph = .idle) (hh : s.handlerActive = false)
    {bank : BitVec 2} (hb : bankOf bank = some b) (pin : BitVec 5) :
    execGpioUnregister bank pin s =
      .next ((s.setBank b ((s.bank b).writeIdr (pinMask (pinOf pin)))).respond s.cmdReq none) := by
  rw [execGpioUnregister, issue_eq _ hq hp hh, hb]

/-- Settles O12: a bank operand is 3 or names a bank. -/
theorem gpioRegisterIssue : Obligations.GpioRegisterIssue := by
  intro s q bank pin mode hook hq hp hh
  refine ⟨?_, fun b hb => execGpioRegister_eq hq hp hh (bankOf_eq hb) pin mode hook⟩
  rintro rfl
  exact execGpioRegister_bank_three hq hp hh pin mode hook

/-- Settles O13: a bank operand is 3 or names a bank, whose mask loses the pin. -/
theorem gpioUnregisterResult : Obligations.GpioUnregisterResult := by
  intro s q bank pin hq hp hh
  refine ⟨?_, fun b hb => execGpioUnregister_eq hq hp hh (bankOf_eq hb) pin⟩
  rintro rfl
  exact execGpioUnregister_bank_three hq hp hh pin

/-! ### The micro-steps of GPIO_REGISTER (rules R141 to R144) -/

/-- G1 (rule R141). -/
theorem step_g1 (hm : s.moves = .task r :: rest) (hh : s.handlerActive = false) (hq : s.reqs[r]? = some q)
    (hp : q.ph = .g1) :
    step s = .next { s with
      moves := rest, banks := s.banks.set q.req.bank ((s.bank q.req.bank).writeIdr (pinMask q.req.pin))
      reqs := s.reqs.set r { q with ph := .g2 } } :=
  step_advance { s with moves := rest, banks := s.banks.set q.req.bank _ } hm hq rfl (by simp [taskEnabled_of hq hh, hp])
    (by simp only [taskStep, hq, hp, g1Mask, State.latch_of_get (s := { s with moves := rest }) hq]; rfl)

/-- G2 (rule R142). -/
theorem step_g2 (hm : s.moves = .task r :: rest) (hh : s.handlerActive = false) (hq : s.reqs[r]? = some q)
    (hp : q.ph = .g2) :
    step s = .next { s with
      moves := rest
      banks := s.banks.set q.req.bank
        { s.bank q.req.bank with mode := (s.bank q.req.bank).mode.set q.req.pin (some q.req.mode) }
      reqs := s.reqs.set r { q with ph := .g3 } } :=
  step_advance { s with moves := rest, banks := s.banks.set q.req.bank _ } hm hq rfl (by simp [taskEnabled_of hq hh, hp])
    (by simp only [taskStep, hq, hp, g2Configure, State.latch_of_get (s := { s with moves := rest }) hq]; rfl)

/-- G3 (rule R143). -/
theorem step_g3 (hm : s.moves = .task r :: rest) (hh : s.handlerActive = false) (hq : s.reqs[r]? = some q)
    (hp : q.ph = .g3) :
    step s = .next { s with
      moves := rest
      banks := s.banks.set q.req.bank
        { s.bank q.req.bank with hook := (s.bank q.req.bank).hook.set q.req.pin (some q.req.hook) }
      reqs := s.reqs.set r { q with ph := .g4 } } :=
  step_advance { s with moves := rest, banks := s.banks.set q.req.bank _ } hm hq rfl (by simp [taskEnabled_of hq hh, hp])
    (by simp only [taskStep, hq, hp, g3Install, State.latch_of_get (s := { s with moves := rest }) hq]; rfl)

/-- G4 (rule R144). -/
theorem step_g4 (hm : s.moves = .task r :: rest) (hh : s.handlerActive = false) (hq : s.reqs[r]? = some q)
    (hp : q.ph = .g4) :
    step s = .next { s with
      moves := rest, banks := s.banks.set q.req.bank ((s.bank q.req.bank).writeIer (pinMask q.req.pin))
      trace := s.trace ++ [.rsp r .ok 0 none], reqs := s.reqs.set r { q with ph := .idle } } :=
  step_advance
    { s with moves := rest, banks := s.banks.set q.req.bank _, trace := s.trace ++ [.rsp r .ok 0 none] } hm hq rfl
    (by simp [taskEnabled_of hq hh, hp])
    (by simp only [taskStep, hq, hp, g4Unmask, State.latch_of_get (s := { s with moves := rest }) hq]; rfl)

/-- Settles O27: one lemma per micro-step. -/
theorem registrationSteps : Obligations.RegistrationSteps := fun _ _ _ _ hm hh hq =>
  ⟨step_g1 hm hh hq, step_g2 hm hh hq, step_g3 hm hh hq, step_g4 hm hh hq⟩

/-! ### A whole GPIO_REGISTER (rule R145) -/

/-- A requester's step neither enters nor leaves a handler (rules R4, R39). -/
theorem handlerActive_of_step_task {t : State} (hm : s.moves = .task r :: rest) (h : step s = .next t) :
    t.handlerActive = s.handlerActive := by
  rcases step_move hm h with rfl | hf
  · rfl
  · have hspi : t.spiH = s.spiH := by_contra fun hne => nomatch hf.spiH_writer hne
    have hdisp (b : BankId) : (t.bank b).disp = (s.bank b).disp :=
      by_contra fun hne => nomatch (hf.bankStep b).disp_writer hne
    simp only [State.handlerActive, State.spiActive, State.anyDispatcherActive, State.dispatcherActive, hspi, hdisp]

/-- A bank after a registration of pin `p` (rules R141 to R144). -/
def Bank.registered (k : Bank) (p : PinId) (mode : TrigMode) (hook : Handle) : Bank :=
  { k.writeIdr (pinMask p) with mode := k.mode.set p (some mode), hook := k.hook.set p (some hook) }.writeIer
    (pinMask p)

/-- A registration unmasks its pin and leaves the mask of the others. -/
theorem Bank.getLsbD_imr_registered (k : Bank) (p j : PinId) (mode : TrigMode) (hook : Handle) :
    (k.registered p mode hook).imr.getLsbD j = (decide (j = p) || k.imr.getLsbD j) := by
  rw [Bank.registered, Bank.getLsbD_writeIer, Bank.getLsbD_writeIdr]
  split <;> simp [*]

/-- `s` after its requester `r` ran the registration it had latched: G1 to G4 (rules R141 to R144). -/
def State.register (s : State) (r : Nat) (q : Requester) : State :=
  { s with
    banks := s.banks.set q.req.bank ((s.bank q.req.bank).registered q.req.pin q.req.mode q.req.hook)
    trace := s.trace ++ [.rsp r .ok 0 none], reqs := s.reqs.set r { q with ph := .idle } }

/-- A registration leaves the banks it does not name (rule R145). -/
theorem State.bank_register (s : State) (r : Nat) (q : Requester) (b : BankId) :
    (s.register r q).bank b =
      if b = q.req.bank then (s.bank q.req.bank).registered q.req.pin q.req.mode q.req.hook else s.bank b :=
  State.bank_of_set rfl b

/-- From G1, four steps of the requester end its command (rules R141 to R144). -/
theorem run_register (hm : s.moves = List.replicate 4 (.task r) ++ rest) (hh : s.handlerActive = false)
    (hq : s.reqs[r]? = some q) (hp : q.ph = .g1) :
    Host.Core.run Sys2Proof.core 4 s = .next { s.register r q with moves := rest } := by
  have hq₂ := getElem?_set_of_get hq { q with ph := .g2 }
  have hq₃ := getElem?_set_of_get hq₂ { q with ph := .g3 }
  have hq₄ := getElem?_set_of_get hq₃ { q with ph := .g4 }
  have h₁ := step_g1 hm hh hq hp
  have hh₂ := (handlerActive_of_step_task hm h₁).trans hh
  have h₂ := step_g2 rfl hh₂ hq₂ rfl
  have hh₃ := (handlerActive_of_step_task rfl h₂).trans hh₂
  have h₃ := step_g3 rfl hh₃ hq₃ rfl
  have hh₄ := (handlerActive_of_step_task rfl h₃).trans hh₃
  refine run_cons h₁ (run_cons h₂ (run_cons h₃ (run_cons (step_g4 rfl hh₄ hq₄ rfl) ?_)))
  simp [Host.Core.run, State.register, State.bank, Bank.registered, Bank.writeIdr, Bank.writeIer]

/-- A requester after it issued a GPIO_REGISTER: the item is off its script, the request latched (rule R140). -/
def Requester.registering (q : Requester) (items : List Item) (b : BankId) (p : PinId) (mode : TrigMode)
    (hook : Handle) : Requester :=
  { q with script := items, ph := .g1, req := { q.req with bank := b, pin := p, mode := mode, hook := hook } }

/-- A pin's number as an operand names that pin (rule R77). -/
theorem pinOf_ofNat (p : PinId) : pinOf (BitVec.ofNat 5 p) = p :=
  Fin.ext (Nat.mod_eq_of_lt p.isLt)

/-- A bank's number as an operand names that bank (rule R77). -/
theorem bankOf_ofNat (b : BankId) : bankOf (BitVec.ofNat 2 b) = some b :=
  bankOf_eq (Nat.mod_eq_of_lt (by omega))

/-- The step of an IDLE requester whose next item is a GPIO_REGISTER (rules R76, R140, R230). -/
theorem step_issueRegistration {port : Port} {p : PinId} {mode : TrigMode} {hook : Handle} {items : List Item}
    (hm : s.moves = .task r :: rest) (hh : s.handlerActive = false) (hq : s.reqs[r]? = some q) (hp : q.ph = .idle)
    (hs : q.script = .command port :: items)
    (hd : decode (.command port) = .instr (.gpioRegister (BitVec.ofNat 2 b) (BitVec.ofNat 5 p) mode hook)) :
    step s = .next { s with
      moves := rest, cmdReq := r, reqs := s.reqs.set r (q.registering items b p mode hook) } := by
  have hpresented := getElem?_set_of_get hq { q with script := items }
  rw [stepRunsDecodedCommand s r q port _ items rest hm hh hq hp hs hd]
  refine Eq.trans (execGpioRegister_eq (s := { s with moves := _, reqs := _, cmdReq := r }) hpresented hp hh
    (bankOf_ofNat b) _ mode hook) ?_
  rw [pinOf_ofNat]
  simp [Requester.registering]

/-- Five steps of an IDLE requester run its GPIO_REGISTER: G0 to G4 (rules R140 to R145). -/
theorem run_gpioRegister {port : Port} {p : PinId} {mode : TrigMode} {hook : Handle} {items : List Item}
    (hm : s.moves = List.replicate 5 (.task r) ++ rest) (hh : s.handlerActive = false) (hq : s.reqs[r]? = some q)
    (hp : q.ph = .idle) (hs : q.script = .command port :: items)
    (hd : decode (.command port) = .instr (.gpioRegister (BitVec.ofNat 2 b) (BitVec.ofNat 5 p) mode hook)) :
    Host.Core.run Sys2Proof.core 5 s =
      .next { s.register r (q.registering items b p mode hook) with moves := rest, cmdReq := r } := by
  have hq₁ := getElem?_set_of_get hq (q.registering items b p mode hook)
  refine (run_cons (step_issueRegistration hm hh hq hp hs hd) (run_register rfl hh hq₁ rfl)).trans ?_
  simp [State.register, State.bank]

/-- Settles O37: the run ends in `State.register`, whose banks are those of `s` but for the registered one. -/
theorem registrationCompletes : Obligations.RegistrationCompletes := by
  intro s r q bank pin mode hook p items rest hm hh hq hp hs hd
  have hbank := s.bank_register r (q.registering items bank pin mode hook)
  have hsame := (hbank bank).trans (if_pos rfl)
  refine ⟨_, run_gpioRegister hm hh hq hp hs hd, congrArg Bank.mode hsame, congrArg Bank.hook hsame, fun j => ?_,
    (congrArg Bank.isr hsame).trans rfl, fun b hb => (hbank b).trans (if_neg hb), rfl,
    (State.phase_of_get (getElem?_set_of_get hq _)).trans rfl, rfl⟩
  exact (congrArg (·.imr.getLsbD j) hsame).trans (Bank.getLsbD_imr_registered ..)

/-! ### The event of a pin (rule R148) -/

/-- The step of the environment is never blocked (rule R3). -/
theorem step_pin {p : PinId} {v choice : Bool} (hm : s.moves = .pin b p v choice :: rest) :
    step s = .next { s with moves := rest, banks := s.banks.set b ((s.bank b).pinEvent p v choice) } := by
  rw [step_cons hm, runMove_enabled rfl]
  rfl

/-- Settles O36: the bits of the two registers that `Bank.pinEvent` writes; the mask is not read (rule R148). -/
theorem pinEventCaptures : Obligations.PinEventCaptures := by
  intro s b p v choice rest hm old trig
  have htrig : triggers (s.bank b).mode[p] old v choice = trig := rfl
  refine ⟨_, ((s.bank b).pinEvent p v choice).isr, step_pin hm, fun j => getLsbD_setBit _ p j v, fun j => ?_⟩
  rw [Bank.getLsbD_isr_pinEvent, htrig]
  by_cases hj : j = p <;> simp [hj]

/-! ### The steps of a dispatcher (rules R150 to R152, R177) -/

/-- When a dispatcher that is not active is entered (rules R175, R177). -/
theorem dispatcherEntryEnabled_iff (hi : (s.bank b).disp = .idle) :
    s.dispatcherEntryEnabled b = true ↔ (s.bank b).isr &&& (s.bank b).imr ≠ 0 ∧ (s.bank b).nvic = true ∧
      (s.cfg.irqNest = .any ∨ (s.spiH = .idle ∧ ∀ b' : BankId, (s.bank b').disp = .idle)) := by
  have hirq : s.irqGpio b = true ↔ (s.bank b).isr &&& (s.bank b).imr ≠ 0 := decide_eq_true_iff
  simp only [State.dispatcherEntryEnabled, State.dispatcherActive, State.spiActive, hi, Bool.and_eq_true,
    Bool.or_eq_true, Bool.not_eq_true', decide_eq_true_iff, anyDispatcherActive_eq_false, hirq]
  simp [and_assoc]

/-- The entry of a dispatcher (rule R177). -/
theorem step_dispatcher_entry (hm : s.moves = .gpio b :: rest) (he : s.dispatcherEntryEnabled b = true)
    (hi : (s.bank b).disp = .idle) :
    step s = .next { s with moves := rest, banks := s.banks.set b { s.bank b with disp := .entered } } := by
  have henabled : State.enabled { s with moves := rest } (.gpio b) = true := Bool.or_eq_true_iff.mpr (.inr he)
  have hi' : (State.bank { s with moves := rest } b).disp = .idle := hi
  rw [step_cons hm, runMove_enabled henabled]
  simp only [fire, dispatcherStep, hi']
  rfl

/-- An active dispatcher takes the step of its phase (rule R150). -/
theorem step_dispatcher_active (hm : s.moves = .gpio b :: rest) (hi : (s.bank b).disp ≠ .idle) :
    step s = .next (dispatcherStep b { s with moves := rest }) := by
  have henabled : State.enabled { s with moves := rest } (.gpio b) = true :=
    Bool.or_eq_true_iff.mpr (.inl (decide_eq_true hi))
  rw [step_cons hm, runMove_enabled henabled, fire]

/-- Settles O33: the step of an entered dispatcher is its read (rule R151). -/
theorem dispatcherReadsOnce : Obligations.DispatcherReadsOnce := by
  intro s b rest hm hd
  have hd' : (State.bank { s with moves := rest } b).disp = .entered := hd
  rw [step_dispatcher_active hm (by simp [hd])]
  simp only [dispatcherStep, hd']
  rfl

/-- What examining pin `i` of a snapshot emits: the invocation of its hook, if its bit is set and it has one (rule
R152). -/
def scanEvent (hook : Vector (Option Handle) 32) (b : BankId) (snapshot : Word) (i : PinId) : Option Event :=
  if snapshot.getLsbD i then hook[i].map (Event.hookInvoke b i) else none

/-- A scan step as one record update: it moves to the next pin and appends what the pin emits (rule R152). -/
theorem dispatcherScan_eq (b : BankId) (snapshot : Word) (i : PinId) (s : State) :
    dispatcherScan b snapshot i s = { s with
      banks := s.banks.set b { s.bank b with disp := nextScan snapshot i }
      trace := s.trace ++ (scanEvent (s.bank b).hook b snapshot i).toList } := by
  cases hbit : snapshot.getLsbD i with
  | false =>
    simp only [dispatcherScan, scanEvent, hbit]
    simp [State.setBank]
  | true =>
    cases hhook : (s.bank b).hook[i] with
    | none | some h =>
      simp only [dispatcherScan, scanEvent, hbit, hhook]
      simp [State.setBank, State.emit]

/-- The step of a scanning dispatcher (rule R152). -/
theorem step_dispatcher_scan {snapshot : Word} {i : PinId} (hm : s.moves = .gpio b :: rest)
    (hd : (s.bank b).disp = .scan snapshot i) :
    step s = .next { s with
      moves := rest
      banks := s.banks.set b { s.bank b with disp := nextScan snapshot i }
      trace := s.trace ++ (scanEvent (s.bank b).hook b snapshot i).toList } := by
  have hd' : (State.bank { s with moves := rest } b).disp = .scan snapshot i := hd
  rw [step_dispatcher_active hm (by simp [hd])]
  simp only [dispatcherStep, hd', dispatcherScan_eq]
  rfl

/-- The phase after a pin was examined: pin 31 is the last (rule R152). -/
theorem nextScan_eq (snapshot : Word) (i : PinId) :
    nextScan snapshot i = if h : i.val = 31 then .idle else .scan snapshot ⟨i.val + 1, by omega⟩ := by
  unfold nextScan
  by_cases h : i.val = 31
  · simp [h]
  · rw [dif_pos (by omega), dif_neg h]

/-- Settles O34: the phase is that of `nextScan`, the events are those of `scanEvent`. -/
theorem dispatcherScanStep : Obligations.DispatcherScanStep := by
  intro s b snapshot i rest hm hd
  rw [step_dispatcher_scan hm hd, nextScan_eq, scanEvent]
  cases snapshot.getLsbD i with
  | false => rfl
  | true => cases (s.bank b).hook[i] <;> rfl

/-! ### One whole dispatch (rules R150 to R153) -/

/-- The phase of a dispatcher that examined the pins below `n` (rule R152). -/
def scanFrom (snapshot : Word) (n : Nat) : DispatchPhase :=
  if h : n < 32 then .scan snapshot ⟨n, h⟩ else .idle

/-- `s` after the dispatcher of bank `b` read `status & mask` and examined the pins below `n`, in ascending order (rules
R151, R152). -/
def State.dispatched (s : State) (b : BankId) (n : Nat) : State :=
  { s with
    banks := s.banks.set b { s.bank b with isr := 0, disp := scanFrom (s.bank b).pending n }
    trace := s.trace ++ ((List.finRange 32).take n).filterMap (scanEvent (s.bank b).hook b (s.bank b).pending) }

/-- The bank being dispatched: its status is cleared and its phase is that of the scan. -/
theorem State.bank_dispatched (s : State) (b : BankId) (n : Nat) :
    (s.dispatched b n).bank b = { s.bank b with isr := 0, disp := scanFrom (s.bank b).pending n } :=
  (State.bank_of_set rfl b).trans (if_pos rfl)

/-- The entry and the read of a dispatcher (rules R151, R177). -/
theorem run_dispatcherRead (hm : s.moves = List.replicate 2 (.gpio b) ++ rest) (he : s.dispatcherEntryEnabled b = true)
    (hi : (s.bank b).disp = .idle) :
    Host.Core.run Sys2Proof.core 2 s = .next { s.dispatched b 0 with moves := rest } := by
  refine run_cons (step_dispatcher_entry hm he hi) (run_cons (dispatcherReadsOnce _ b _ rfl ?_) ?_)
  · simp [State.bank]
  · simp [Host.Core.run, State.dispatched, State.bank, scanFrom, Bank.pending]

/-- What the pins below `n + 1` give is what those below `n` give and what pin `n` gives. -/
theorem filterMap_take_succ {α : Type} (f : PinId → Option α) {n : Nat} (hn : n < 32) :
    ((List.finRange 32).take (n + 1)).filterMap f = ((List.finRange 32).take n).filterMap f ++ (f ⟨n, hn⟩).toList := by
  have hpin : (List.finRange 32)[n]? = some ⟨n, hn⟩ := by simp [hn]
  rw [List.take_add_one, List.filterMap_append, hpin, Option.toList_some]
  cases h : f ⟨n, hn⟩ <;> simp [h]

/-- One scan step examines one more pin (rule R152). -/
theorem step_dispatched {n : Nat} (hn : n < 32) :
    step { s.dispatched b n with moves := .gpio b :: rest } = .next { s.dispatched b (n + 1) with moves := rest } := by
  have hd : ((s.dispatched b n).bank b).disp = .scan (s.bank b).pending ⟨n, hn⟩ := by
    rw [State.bank_dispatched]
    exact dif_pos hn
  refine (step_dispatcher_scan (s := { s.dispatched b n with moves := .gpio b :: rest }) rfl hd).trans ?_
  have hnext (snapshot : Word) : nextScan snapshot ⟨n, hn⟩ = scanFrom snapshot (n + 1) := rfl
  simp [State.dispatched, State.bank, filterMap_take_succ _ hn, hnext]

/-- The scan of the pins that are left, from pin `n` on (rule R152). -/
theorem run_dispatched (k : Nat) {n : Nat} (hn : n + k = 32) :
    Host.Core.run Sys2Proof.core k { s.dispatched b n with moves := List.replicate k (.gpio b) ++ rest } =
      .next { s.dispatched b 32 with moves := rest } := by
  induction k generalizing n with
  | zero => cases hn; rfl
  | succ k ih => exact run_cons (step_dispatched (by omega)) (ih (by omega))

/-- After the last pin the phase is idle again and every pin was examined (rules R152, R180). -/
theorem State.dispatched_all (hi : (s.bank b).disp = .idle) :
    s.dispatched b 32 = { s with
      banks := s.banks.set b { s.bank b with isr := 0 }
      trace := s.trace ++ (List.finRange 32).filterMap (scanEvent (s.bank b).hook b (s.bank b).pending) } := by
  have hphase : scanFrom (s.bank b).pending 32 = (s.bank b).disp := hi.symm
  rw [State.dispatched, hphase, List.take_of_length_le (by simp)]

/-- Settles O35: entry, read, and the scan of the 32 pins. -/
theorem dispatchInvokesExactlyPending : Obligations.DispatchInvokesExactlyPending := by
  intro s b rest hm hi hpending hnvic hnest
  have he := (dispatcherEntryEnabled_iff hi).mpr ⟨hpending, hnvic, hnest⟩
  have hrun := run_trans (run_dispatcherRead (rest := List.replicate 32 (.gpio b) ++ rest) hm he hi)
    (run_dispatched 32 rfl)
  rw [State.dispatched_all hi] at hrun
  exact hrun

end Sys2Proof.Machine
end

section
/-! PROOFS of the statements that cite `60_exceptions.md`: a contract violation changes nothing (rules R170, R182), when
the handlers are entered (rules R174 to R177), and the steps of active handlers of different lines commute (rule R181). -/

namespace Sys2Proof.Machine

variable {s t : State} {b : BankId} {rest : List Move}

/-! ### Responses and contract violations (rules R170, R182) -/

/-- What one instruction answers, by what it appends to the trace: `Answers s t` when it takes `s` to `t`. -/
inductive Answers (s t : State) : Prop where
  /-- No event: the command waits for the handlers, the control word for the engine, or a request was latched. -/
  | silent (ht : t.trace = s.trace)
  /-- A control word goes to the SPI shifter (rule R110). -/
  | sends (w : Word) (ht : t.trace = s.trace ++ [.spiTx w])
  /-- The command responds OK. -/
  | responds (word : Option Word) (ht : t.trace = s.trace ++ [.rsp s.cmdReq .ok 0 word])
  /-- The command raises a contract violation and does nothing else (rule R170). -/
  | violates (code : RspCode) (info : Word) (ht : t = s.raise s.cmdReq code info)

/-- A control word answers with its transmission or not at all. -/
theorem answers_of_moveControlWord {w : Word} (h : moveControlWord w s = .next t) : Answers s t := by
  rcases moveControlWord_next h with ⟨-, rfl⟩ | ⟨-, rfl⟩
  · exact .silent rfl
  · exact .sends w rfl

/-- Every instruction answers in one of the four ways. -/
theorem exec_answers {i : Instr} (h : exec i s = .next t) : Answers s t := by
  cases i with
  | cwS0 l td | cwS1 l td | cwS2 l td | cwS3 l td => exact answers_of_moveControlWord h
  | encode last cs payload =>
    rcases execEncode_next h with rfl | rfl | ⟨bits, rfl⟩
    · exact .silent rfl
    · exact .violates _ _ rfl
    · exact .responds _ rfl
  | transceive tx rx n cb =>
    rcases execTransceive_next h with rfl | rfl | ⟨q, -, -, -, -, -, rfl⟩
    · exact .silent rfl
    · exact .violates _ _ rfl
    · exact .silent rfl
  | gpioRegister bank pin mode hook =>
    rcases execGpioRegister_next h with rfl | rfl | ⟨q, b, -, -, -, -, rfl⟩
    · exact .silent rfl
    · exact .violates _ _ rfl
    · exact .silent rfl
  | gpioUnregister bank pin =>
    rcases execGpioUnregister_next h with rfl | rfl | ⟨b, -, rfl⟩
    · exact .silent rfl
    · exact .violates _ _ rfl
    · exact .responds _ rfl
  | init =>
    rcases execInit_next h with rfl | rfl
    · exact .silent rfl
    · exact .responds _ rfl

/-- Settles O16: only two of the four answers hold a response, and one of them is OK. -/
theorem violationChangesNothing : Obligations.ViolationChangesNothing := by
  intro i s t r code info word es hexec htrace hmem
  cases exec_answers hexec with
  | silent ht =>
    obtain rfl : es = [] := List.self_eq_append_right.mp (ht.symm.trans htrace)
    simp at hmem
  | sends w ht =>
    obtain rfl := List.append_cancel_left (htrace.symm.trans ht)
    simp at hmem
  | responds word' ht =>
    obtain rfl := List.append_cancel_left (htrace.symm.trans ht)
    obtain ⟨rfl, rfl, rfl, rfl⟩ : r = s.cmdReq ∧ code = .ok ∧ info = 0 ∧ word = word' := by simpa using hmem
    exact ⟨rfl, rfl, fun hcode => absurd rfl hcode⟩
  | violates code' info' ht =>
    subst ht
    obtain rfl := List.append_cancel_left (htrace.symm.trans (State.raise_trace ..))
    obtain ⟨rfl, rfl, rfl, rfl⟩ : r = s.cmdReq ∧ code = code' ∧ info = info' ∧ word = none := by simpa using hmem
    exact ⟨rfl, rfl, fun _ => ⟨rfl, rfl⟩⟩

/-! ### When the handlers are entered (rules R174 to R177) -/

/-- An idle completion handler whose entry is not enabled takes no step. -/
theorem step_spi_blocked (hm : s.moves = .spi :: rest) (hi : s.spiH = .idle) (he : ¬ s.spiEntryEnabled = true) :
    step s = .next { s with moves := rest } := by
  have hactive : s.spiActive = false := decide_eq_false (not_not.mpr hi)
  have hblocked : State.enabled { s with moves := rest } .spi = false :=
    Bool.or_eq_false_iff.mpr ⟨hactive, Bool.eq_false_iff.mpr he⟩
  rw [step_cons hm, runMove_blocked hblocked]

/-- Settles O29: the condition is that of `State.spiEntryEnabled`. -/
theorem spiHandlerEntry : Obligations.SpiHandlerEntry := by
  intro s rest hm hi enabled
  have henabled : s.spiEntryEnabled = true ↔ enabled := spiEntryEnabled_iff.trans (and_iff_right hi)
  exact ⟨fun h => step_spi_entry hm (henabled.mpr h), fun h => step_spi_blocked hm hi (henabled.not.mpr h)⟩

/-- An idle dispatcher whose entry is not enabled takes no step. -/
theorem step_dispatcher_blocked (hm : s.moves = .gpio b :: rest) (hi : (s.bank b).disp = .idle)
    (he : ¬ s.dispatcherEntryEnabled b = true) : step s = .next { s with moves := rest } := by
  have hactive : s.dispatcherActive b = false := decide_eq_false (not_not.mpr hi)
  have hblocked : State.enabled { s with moves := rest } (.gpio b) = false :=
    Bool.or_eq_false_iff.mpr ⟨hactive, Bool.eq_false_iff.mpr he⟩
  rw [step_cons hm, runMove_blocked hblocked]

/-- Settles O32: the condition is that of `State.dispatcherEntryEnabled` in an idle phase. -/
theorem dispatcherEntry : Obligations.DispatcherEntry := by
  intro s b rest hm hi enabled
  have henabled : s.dispatcherEntryEnabled b = true ↔ enabled := dispatcherEntryEnabled_iff hi
  exact ⟨fun h => step_dispatcher_entry hm (henabled.mpr h) hi,
    fun h => step_dispatcher_blocked hm hi (henabled.not.mpr h)⟩

/-! ### Active handlers of different lines (rules R39, R181) -/

/-- A step of the completion handler neither reads nor writes the schedule and the banks, and it only appends to the
trace, the same events whatever stands there (rules R130 to R135). -/
theorem spiHandlerStep_local (s : State) : ∃ es, ∀ moves banks trace,
    spiHandlerStep { s with moves := moves, banks := banks, trace := trace } =
      { spiHandlerStep s with moves := moves, banks := banks, trace := trace ++ es } := by
  cases hi : s.spiH with
  | b =>
    refine ⟨s.cb.toList.map .cbInvoke, fun moves banks trace => ?_⟩
    cases hcb : s.cb <;> simp [spiHandlerStep, hi, handlerCallback, hcb, State.emit]
  | idle | a | c | d1 | d2 =>
    refine ⟨[], fun moves banks trace => ?_⟩
    rw [List.append_nil]
    simp only [spiHandlerStep, hi]
    rfl

/-- A step of an active completion handler, for any schedule, banks and trace. -/
theorem step_spi_local (hi : s.spiH ≠ .idle) : ∃ es, ∀ rest banks trace,
    step { s with moves := .spi :: rest, banks := banks, trace := trace } =
      .next { spiHandlerStep s with moves := rest, banks := banks, trace := trace ++ es } := by
  obtain ⟨es, hes⟩ := spiHandlerStep_local s
  refine ⟨es, fun rest banks trace => ?_⟩
  rw [← hes]
  exact step_spi_active (s := { s with moves := .spi :: rest, banks := banks, trace := trace }) rfl hi

/-- A step of a bank's dispatcher replaces that bank and appends to the trace; by what, that bank alone says (rules R151,
R152, R177). -/
theorem dispatcherStep_local (b : BankId) (k : Bank) : ∃ k' es, ∀ s : State, s.bank b = k →
    dispatcherStep b s = { s with banks := s.banks.set b k', trace := s.trace ++ es } := by
  cases hd : k.disp with
  | idle =>
    refine ⟨{ k with disp := .entered }, [], ?_⟩
    rintro s rfl
    simp [dispatcherStep, hd, enterDispatcher, State.setBank]
  | entered =>
    refine ⟨{ k with isr := 0, disp := .scan (k.isr &&& k.imr) 0 }, [], ?_⟩
    rintro s rfl
    simp [dispatcherStep, hd, dispatcherRead, Bank.readIsr, State.setBank]
  | scan snapshot i =>
    refine ⟨{ k with disp := nextScan snapshot i }, (scanEvent k.hook b snapshot i).toList, ?_⟩
    rintro s rfl
    simp only [dispatcherStep, hd, dispatcherScan_eq]

/-- A step of an active dispatcher, in every state with the same bank. -/
theorem step_dispatcher_local {k : Bank} (hi : k.disp ≠ .idle) : ∃ k' es, ∀ (s : State) (rest : List Move),
    s.moves = .gpio b :: rest → s.bank b = k →
      step s = .next { s with moves := rest, banks := s.banks.set b k', trace := s.trace ++ es } := by
  obtain ⟨k', es, hstep⟩ := dispatcherStep_local b k
  refine ⟨k', es, fun s rest hm hk => ?_⟩
  rw [step_dispatcher_active hm (hk ▸ hi), hstep { s with moves := rest } hk]

/-- Two runs of two steps each meet again: the completion handler and a dispatcher touch no element in common but the
trace. -/
theorem spi_gpio_commute (hs : s.spiH ≠ .idle) (hb : (s.bank b).disp ≠ .idle) (rest : List Move) :
    ∃ t u es eg,
      Host.Core.run Sys2Proof.core 2 { s with moves := .spi :: .gpio b :: rest } = .next t ∧
      Host.Core.run Sys2Proof.core 2 { s with moves := .gpio b :: .spi :: rest } = .next u ∧
      t = { u with trace := t.trace } ∧ t.trace = s.trace ++ es ++ eg ∧ u.trace = s.trace ++ eg ++ es := by
  obtain ⟨es, hspi⟩ := step_spi_local hs
  obtain ⟨k, eg, hgpio⟩ := step_dispatcher_local (b := b) hb
  exact ⟨_, _, es, eg,
    run_cons (hspi (.gpio b :: rest) s.banks s.trace) (run_cons (hgpio _ rest rfl rfl) rfl),
    run_cons (hgpio _ (.spi :: rest) rfl rfl) (run_cons (hspi rest _ _) rfl), rfl, rfl, rfl⟩

/-- The dispatchers of two banks touch no element in common but the trace. -/
theorem gpio_gpio_commute {c : BankId} (hne : b ≠ c) (hb : (s.bank b).disp ≠ .idle) (hc : (s.bank c).disp ≠ .idle)
    (rest : List Move) :
    ∃ t u eb ec,
      Host.Core.run Sys2Proof.core 2 { s with moves := .gpio b :: .gpio c :: rest } = .next t ∧
      Host.Core.run Sys2Proof.core 2 { s with moves := .gpio c :: .gpio b :: rest } = .next u ∧
      t = { u with trace := t.trace } ∧ t.trace = s.trace ++ eb ++ ec ∧ u.trace = s.trace ++ ec ++ eb := by
  obtain ⟨kb, eb, hstepb⟩ := step_dispatcher_local (b := b) hb
  obtain ⟨kc, ec, hstepc⟩ := step_dispatcher_local (b := c) hc
  have hbanks : (s.banks.set b kb).set c kc = (s.banks.set c kc).set b kb :=
    Vector.set_comm _ _ (Fin.val_ne_of_ne hne)
  refine ⟨_, _, eb, ec,
    run_cons (hstepb _ (.gpio c :: rest) rfl rfl)
      (run_cons (hstepc _ rest rfl ((State.bank_of_set (s := s) rfl c).trans (if_neg hne.symm))) rfl),
    run_cons (hstepc _ (.gpio b :: rest) rfl rfl)
      (run_cons (hstepb _ rest rfl ((State.bank_of_set (s := s) rfl b).trans (if_neg hne))) rfl), ?_, rfl, rfl⟩
  rw [hbanks]

/-- Settles O57: the lines are the completion handler's and one bank's, or those of two banks. -/
theorem activeHandlersCommute : Obligations.ActiveHandlersCommute :=
  ⟨fun _ _ rest hs hb => spi_gpio_commute hs hb rest, fun _ _ _ rest hne hb hc => gpio_gpio_commute hne hb hc rest⟩

end Sys2Proof.Machine
end

section
/-! PROOFS of the statements that cite `70_reset_and_hazards.md`: what reset gives (rules R200 to R202), that the launch
satisfies the invariant of the whole block, that the parameters of a run are fixed (rule R230), and that no state of the
invariant is a hang (rule R231). -/

namespace Sys2Proof.Machine

variable {s t : State} {r : Nat} {q : Requester}

/-! ### The launch state (rule R200) -/

section
variable (cfg : Params) (mem : Memory) (levels : Vector Word 3) (scripts : List (List Item))

/-- The requesters of a launch, one per script. -/
theorem State.getElem?_reqs_launch (r : Nat) :
    (State.launch cfg mem levels scripts).reqs[r]? = scripts[r]?.map Requester.atReset :=
  List.getElem?_map

/-- Every requester is IDLE at launch. -/
@[simp] theorem State.phase_launch (r : Nat) : (State.launch cfg mem levels scripts).phase r = .idle := by
  rw [State.phase, State.getElem?_reqs_launch]
  cases scripts[r]? <;> rfl

/-- Every bank takes its reset values at launch, with its launch pin levels. -/
@[simp] theorem State.bank_launch (b : BankId) :
    (State.launch cfg mem levels scripts).bank b = Bank.atReset levels[b] :=
  Vector.getElem_map ..

end

/-- Settles O49: the registers and the requesters are those of `State.launch`, the banks those of `Bank.atReset`. -/
theorem resetValues : Obligations.ResetValues := by
  intro cfg mem levels scripts s
  refine ⟨rfl, rfl, rfl, rfl, rfl, rfl, rfl, rfl, rfl, rfl, rfl, rfl, State.phase_launch cfg mem levels scripts, rfl,
    fun b => ?_⟩
  have hbank : s.bank b = Bank.atReset levels[b] := State.bank_launch cfg mem levels scripts b
  rw [hbank]
  exact ⟨rfl, rfl, rfl, rfl, rfl, fun p => ⟨Vector.getElem_replicate .., Vector.getElem_replicate ..⟩⟩

/-- The effect of `rst` on a bank: its reset values, with the pin levels it has (rules R34, R202). -/
theorem State.bank_rst (s : State) (b : BankId) : s.rst.bank b = Bank.atReset (s.bank b).level := by
  have hlevel : (s.banks.map Bank.level)[b] = (s.bank b).level := Vector.getElem_map ..
  rw [← hlevel]
  exact State.bank_launch s.cfg s.mem (s.banks.map Bank.level) (s.reqs.map Requester.script) b

/-- Every requester is IDLE after `rst`, whatever it was doing (rule R202). -/
theorem State.phase_rst (s : State) (r : Nat) : s.rst.phase r = .idle :=
  State.phase_launch s.cfg s.mem (s.banks.map Bank.level) (s.reqs.map Requester.script) r

/-- Settles O51: `rst` is a launch with the memory and the pin levels that stand there. -/
theorem resetAbandonsTransfer : Obligations.ResetAbandonsTransfer := fun s =>
  ⟨rfl, rfl, rfl, rfl, rfl, rfl, rfl, rfl, rfl, rfl, rfl, rfl, rfl, s.phase_rst, s.bank_rst⟩

/-! ### What is enabled right after reset (rule R201) -/

/-- An IDLE requester whose step is enabled has an item in its script (rule R230). -/
theorem script_ne_nil_of_taskEnabled (hi : s.phase r = .idle) (he : taskEnabled s r = true) :
    ∃ q, s.reqs[r]? = some q ∧ q.script ≠ [] := by
  cases hq : s.reqs[r]? with
  | none => simp [taskEnabled, hq] at he
  | some q =>
    rw [State.phase_of_get hq] at hi
    simp only [taskEnabled, hq, hi, Bool.and_eq_true, Bool.not_eq_true', List.isEmpty_eq_false_iff] at he
    exact ⟨q, rfl, he.2⟩

/-- A completion handler that is idle with nothing signalled has no enabled step (rule R176). -/
theorem enabled_spi_of_not_done (hi : s.spiH = .idle) (hd : s.done = false) : s.enabled .spi = false := by
  simp [State.enabled, State.spiActive, State.spiEntryEnabled, State.irqSpi, hi, hd]

/-- A dispatcher that is idle with its line masked has no enabled step (rule R177). -/
theorem enabled_gpio_of_masked {b : BankId} (hi : (s.bank b).disp = .idle) (hn : (s.bank b).nvic = false) :
    s.enabled (.gpio b) = false := by
  simp [State.enabled, State.dispatcherActive, State.dispatcherEntryEnabled, hi, hn]

/-- Settles O50: the engine is stopped, no handler can be entered, and the requesters are IDLE. -/
theorem onlyCommandsAndPinsAfterReset : Obligations.OnlyCommandsAndPinsAfterReset := by
  intro cfg mem levels scripts m he
  have hbank := State.bank_launch cfg mem levels scripts
  cases m with
  | pin => exact .inl rfl
  | dmaTx => cases (dmaTxEnabled_iff.mp he).1
  | dmaRx => cases (dmaRxEnabled_iff.mp he).1
  | spi => rw [enabled_spi_of_not_done rfl rfl] at he; cases he
  | gpio b => rw [enabled_gpio_of_masked (by rw [hbank]; rfl) (by rw [hbank]; rfl)] at he; cases he
  | task r =>
    obtain ⟨q, hq, hscript⟩ := script_ne_nil_of_taskEnabled (State.phase_launch cfg mem levels scripts r) he
    rw [State.getElem?_reqs_launch, Option.map_eq_some_iff] at hq
    obtain ⟨items, hitems, rfl⟩ := hq
    exact .inr ⟨r, items, rfl, hitems, hscript⟩

/-! ### The launch satisfies the invariant (rules R200, R230) -/

/-- At launch no pin is unmasked, no registration is under way and nothing is being scanned (rule R153). -/
theorem hooksBehindMask_launch (cfg : Params) (mem : Memory) (levels : Vector Word 3) (scripts : List (List Item)) :
    HooksBehindMask (State.launch cfg mem levels scripts) := by
  refine ⟨fun b p hmask => ?_, fun r hg4 => ?_, fun b snapshot i hscan => ?_⟩
  · simp [Bank.atReset] at hmask
  · simp at hg4
  · simp [Bank.atReset] at hscan

/-- Settles O45: nobody is served, waits or registers at launch, and the engine is stopped. -/
theorem launchSatisfiesInvariant : Obligations.LaunchSatisfiesInvariant := fun cfg mem levels scripts hcfg hmem =>
  { parameters := hcfg
    memory := hmem
    exclusion := fun r => iff_of_false (by rw [State.phase_launch]; decide) (Option.some_ne_none r).symm
    waiters := ⟨List.nodup_nil, fun r => iff_of_false List.not_mem_nil (by rw [State.phase_launch]; decide)⟩
    requests := fun r hr => by rw [State.phase_launch] at hr; cases hr
    enables := ⟨rfl, fun b => by rw [State.bank_launch]; rfl⟩
    engine := (engineFollowsLock_of_free rfl).mpr ⟨⟨rfl, rfl, rfl, rfl, rfl⟩, rfl, rfl⟩
    hooks := hooksBehindMask_launch cfg mem levels scripts }

/-! ### The parameters of a run (rule R230) -/

/-- A step sets at most one requester, so their number stays. -/
theorem RequesterStep.length_reqs (h : RequesterStep s t) : t.reqs.length = s.reqs.length := by
  cases h with
  | keep hreqs => rw [hreqs]
  | enqueue _ _ _ _ _ _ _ _ hreqs | acquire _ _ _ _ hreqs | release _ _ _ _ hreqs | advance _ _ _ _ hreqs =>
    rw [hreqs, List.length_set]

/-- Settles O58: no rule writes the parameters, and none adds or removes a requester. -/
theorem parametersNeverChange : Obligations.ParametersNeverChange := by
  intro s t hstep
  refine step_keeps (P := fun u => u.cfg = s.cfg ∧ u.reqs.length = s.reqs.length) id ?_ ⟨rfl, rfl⟩ hstep
  exact fun hf ⟨hcfg, hlen⟩ => ⟨hf.cfg_eq.trans hcfg, hf.requesterStep.length_reqs.trans hlen⟩

/-! ### No hang (rules R226, R231) -/

/-- Some agent other than the environment has an enabled step. -/
def State.live (s : State) : Prop :=
  ∃ m, s.enabled m = true ∧ isEnvironmentMove m = false

/-- A hang is a blocked requester in a state that is not live (rule R231). -/
theorem State.hung_iff : s.hung ↔ (∃ r, s.phase r = .t1 ∨ s.phase r = .t4) ∧ ¬ s.live := by
  simp [State.hung, State.live]

/-- An active handler is never blocked (rules R130, R150). -/
theorem State.live_of_handlerActive (hh : s.handlerActive = true) : s.live := by
  rcases handlerActive_iff.mp hh with hspi | ⟨b, hb⟩
  · exact ⟨.spi, Bool.or_eq_true_iff.mpr (.inl (decide_eq_true hspi)), rfl⟩
  · exact ⟨.gpio b, Bool.or_eq_true_iff.mpr (.inl (decide_eq_true hb)), rfl⟩

/-- Where only the handlers can hold a requester back, they or it can step (rule R4). -/
theorem State.live_of_task (he : s.handlerActive = false → taskEnabled s r = true) : s.live := by
  cases hh : s.handlerActive with
  | true => exact State.live_of_handlerActive hh
  | false => exact ⟨.task r, he hh, rfl⟩

/-- The next step of a started transfer: a word to transmit, a word to receive, the completion, and then the signal for
the requester that waits in T4 (rules R108, R110, R111, R176). -/
theorem TransferRunning.live (hr : TransferRunning s q.req) (hie : s.ieDone = true) (hq : s.reqs[r]? = some q)
    (hp : q.ph = .t4) : s.live := by
  refine (Bool.eq_false_or_eq_true s.handlerActive).elim State.live_of_handlerActive fun hh => ?_
  obtain ⟨hi, hdisp⟩ := handlerActive_eq_false.mp hh
  cases hsig : s.sig with
  | true => exact ⟨.task r, by rw [State.enabled, taskEnabled_of hq hh, hp]; exact hsig, rfl⟩
  | false =>
    obtain ⟨hen, hnvic, -, hcount, hdone, -⟩ := (transferRunning_idle hi hsig).mp hr
    by_cases htcr : s.tcr = 0
    · by_cases hrcr : s.rcr = 0
      · have hentry := spiEntryEnabled_iff.mpr ⟨hi, hdone.mpr hrcr, hie, hnvic, .inr hdisp⟩
        exact ⟨.spi, Bool.or_eq_true_iff.mpr (.inr hentry), rfl⟩
      · have hinfl : 0 < s.infl := by
          have hleft : 0 < s.rcr.toNat := (toNat_sub_one hrcr).1
          have hsent : s.tcr.toNat = 0 := by rw [htcr]; rfl
          omega
        exact ⟨.dmaRx 0, dmaRxEnabled_iff.mpr ⟨hen, hrcr, hinfl⟩, rfl⟩
    · exact ⟨.dmaTx, dmaTxEnabled_iff.mpr ⟨hen, htcr⟩, rfl⟩

/-- While the lock is held its holder's transfer can go on: in T4 the transfer runs, and no other phase of the holder
waits for anything but the handlers (rules R113, R115). -/
theorem SystemInv.live_of_held (hs : SystemInv s) (hl : s.lock = some r) : s.live := by
  have hfl : (s.phase r).inFlight = true := (hs.exclusion r).mpr hl
  obtain ⟨q, hq, hph⟩ := State.get_of_phase (s := s) (r := r) fun hidle => by rw [hidle] at hfl; cases hfl
  rw [← hph] at hfl
  cases hp : q.ph
  case t4 =>
    have hrun : HolderEngine s q.ph q.req := (hs.engine.holder hs.exclusion hq hfl).2
    have hready : s.ready = true := (hs.requests r (by rw [← hph, hp]; rfl)).1
    rw [hp] at hrun
    exact TransferRunning.live hrun (hs.enables.1.trans hready) hq hp
  case t2 | t3a | t3b | t3c | t5 => exact State.live_of_task (r := r) fun hh => by rw [taskEnabled_of hq hh, hp]
  all_goals
    rw [hp] at hfl
    cases hfl

/-- While the lock is free the first of the wait queue may take it, in either lock order (rule R103). -/
theorem SystemInv.live_of_waiting (hs : SystemInv s) (hl : s.lock = none) (hr : s.phase r = .t1) : s.live := by
  obtain ⟨-, hmem⟩ := hs.waiters
  obtain ⟨first, others, hwait⟩ := List.exists_cons_of_ne_nil (List.ne_nil_of_mem ((hmem r).mpr hr))
  have hfirst : s.phase first = .t1 := (hmem first).mp (by simp [hwait])
  obtain ⟨q, hq, hp⟩ := State.get_of_phase (s := s) (r := first) (by simp [hfirst])
  refine State.live_of_task (r := first) fun hh => ?_
  rw [taskEnabled_of hq hh, hp, hfirst]
  exact mayAcquire_iff.mpr ⟨hl, .inr (by simp [hwait])⟩

/-- Settles O46: a held lock lets its holder's transfer go on, a free one lets a waiter take it, and a requester in T4
holds the lock. -/
theorem blockedRequesterIsNeverAlone : Obligations.BlockedRequesterIsNeverAlone := by
  intro s hs hhung
  obtain ⟨⟨r, hr⟩, hnot⟩ := State.hung_iff.mp hhung
  refine hnot ?_
  cases hl : s.lock with
  | some h => exact hs.live_of_held hl
  | none =>
    rcases hr with ht1 | ht4
    · exact hs.live_of_waiting hl ht1
    · have hheld : s.lock = some r := (hs.exclusion r).mp (by rw [ht4]; rfl)
      cases hl.symm.trans hheld

end Sys2Proof.Machine
end
